-- ==== Sys2Proof/Word.lean ====
section
/-! DEFINITION. The word types of the block (00_scope.md R12, R13): unsigned bytes, 16-bit and 32-bit words, byte sequences
and text. Every integer of the block is unsigned; addresses and lengths are natural numbers. -/

namespace Sys2Proof

/-- `u8`, one byte (R12). -/
abbrev Byte := BitVec 8

/-- `u16` (R12): CRC states, the Intel-HEX address field, the version field. -/
abbrev U16 := BitVec 16

/-- `u32` (R12): the extended linear offset, READ_CRC's address and length. -/
abbrev U32 := BitVec 32

/-- A byte sequence (R13). -/
abbrev Bytes := List Byte

/-- A text line, "a sequence of characters (bytes)" (R140): each character is its ASCII code. -/
abbrev Text := List Byte

end Sys2Proof
end

