-- ==== Sys2Proof/Config.lean ====
section
/-! DEFINITION. What an implementation fixes: the constants of the design and the configuration record of 00_scope.md R10 and
10_state.md R22, and the free values of the two answering ports (R30, R31). -/

namespace Sys2Proof.Config

/-- CRC_POLY (R10, R11): x^16 + x^12 + x^5 + 1. The spec marks it as general knowledge (GK2; log 24). -/
def crcPoly : U16 := 0x1021#16

/-- START, the first byte of every frame (R10, R70). -/
def startByte : Byte := 0x01#8

/-- END, the frame terminator when not escaped (R10, R70). -/
def endByte : Byte := 0x04#8

/-- ESCAPE, the prefix of an escaped byte (R10, R70). -/
def escapeByte : Byte := 0x10#8

/-- HEX_MIN_LINE (R10, R142): a record line has at least 11 characters. -/
def hexMinLine : Nat := 11

/-- HEX_BYTECOUNT_MAX (R10): BB is two hex digits. -/
def hexByteCountMax : Nat := 255

/-- The bound of EFF_ADDR (R10, R51): every image address is below `2^32 + 2^8`. -/
def effAddrBound : Nat := 2 ^ 32 + 2 ^ 8

/-- An unwritten image byte (R53): "models unprogrammed flash". -/
def erased : Byte := 0xFF#8

/-- ELA_MODE (R10, R154): where the two data bytes of an ExtLinearAddr record stand in xaddr. -/
inductive ElaMode where
  | standard
  | legacy
deriving DecidableEq, Repr, Inhabited

/-- RANGE_BACKWARD (R10, R215): what RANGE_CRC does with an in-window byte below its cursor. -/
inductive RangeBackward where
  | refuse
  | fold
deriving DecidableEq, Repr, Inhabited

/-- The read-only configuration record (R22). -/
structure Configuration where
  /-- CRC_INIT, any u16. -/
  crcInit : U16
  /-- ELA_MODE. -/
  elaMode : ElaMode
  /-- RANGE_BACKWARD. -/
  rangeBackward : RangeBackward
  /-- READ_MAX, at least 1 (`Configuration.legal`). -/
  readMax : Nat
  /-- TIMEOUT_MS. -/
  timeoutMs : Nat
  /-- VID, any u16; no operation reads it. -/
  vid : U16
  /-- PID, any u16; no operation reads it. -/
  pid : U16
deriving DecidableEq, Repr, Inhabited

/-- The defaults of R10. VID and PID are OPEN (D32): their 0 is a DESIGN CHOICE, unsafe (log 8). -/
def Configuration.default : Configuration where
  crcInit := 0xFFFF#16
  elaMode := .standard
  rangeBackward := .refuse
  readMax := 64
  timeoutMs := 5000
  vid := 0#16
  pid := 0#16

/-- The legal values of R22 that the types do not already say: READ_MAX ≥ 1. -/
def Configuration.legal (c : Configuration) : Bool := decide (1 ≤ c.readMax)

/-- A consumer's answer to an emission (R30): `Continue` or `Stop`. -/
inductive EmitAnswer where
  | cont
  | stop
deriving DecidableEq, Repr, Inhabited

/-- The transport's answer to a read (R31): bytes, and whether the timeout expired. -/
structure ReadAnswer where
  bytes : Bytes
  timedOut : Bool
deriving DecidableEq, Repr, Inhabited

/-- Free value: what the host consumer answers to the n-th emission for which the State lists no answer (R30; log 6). -/
opaque drawEmit : Nat → EmitAnswer

/-- Free value: what the transport answers to the n-th read for which the State lists no answer (R31, U11: "a free draw";
log 5). -/
opaque drawRead : Nat → ReadAnswer

end Sys2Proof.Config
end

