-- ==== Sys2Proof/Machine/Bytes.lean ====
section
/-! DEFINITION. Byte orders, ASCII hex digits and byte classes, shared by every level of encoding (20_memory.md R54, R55;
30_encoding.md R71, R83). -/

namespace Sys2Proof

/-! ### Byte order of wire fields (R13, R54, R78) -/

/-- `le16(v)` (R13): the low byte first. -/
def le16 (v : U16) : Bytes := [v.extractLsb' 0 8, v.extractLsb' 8 8]

/-- `le32(v)` (R13). -/
def le32 (v : U32) : Bytes :=
  [v.extractLsb' 0 8, v.extractLsb' 8 8, v.extractLsb' 16 8, v.extractLsb' 24 8]

/-- A received u16 field, `b[i] | (b[i+1] << 8)` (R78). -/
def ofLe16 (lo hi : Byte) : U16 := lo.zeroExtend 16 ||| (hi.zeroExtend 16 <<< 8)

/-- A received u32 field, least significant byte first (R54, R75). -/
def ofLe32 (b0 b1 b2 b3 : Byte) : U32 :=
  b0.zeroExtend 32 ||| (b1.zeroExtend 32 <<< 8) ||| (b2.zeroExtend 32 <<< 16) ||| (b3.zeroExtend 32 <<< 24)

/-! ### The record's address field (R55, R87) -/

/-- `zext(addrHi << 8 | addrLo)` (R87). -/
def ofBe16 (hi lo : Byte) : U16 := (hi.zeroExtend 16 <<< 8) ||| lo.zeroExtend 16

/-- AAAA as it is written: addrHi, then addrLo (R55, R84). -/
def be16 (v : U16) : Bytes := [v.extractLsb' 8 8, v.extractLsb' 0 8]

/-! ### Hex digits (R83) -/

/-- The value of an ASCII hex digit, `0-9 A-F a-f`; any other character has none (R83, R143). -/
def hexDigit (c : Byte) : Option Nat :=
  if 0x30 ≤ c.toNat ∧ c.toNat ≤ 0x39 then some (c.toNat - 0x30)
  else if 0x41 ≤ c.toNat ∧ c.toNat ≤ 0x46 then some (c.toNat - 0x41 + 10)
  else if 0x61 ≤ c.toNat ∧ c.toNat ≤ 0x66 then some (c.toNat - 0x61 + 10)
  else none

/-- `c` is one of `0-9 A-F a-f` (R83). -/
def isHexDigit (c : Byte) : Bool := (hexDigit c).isSome

/-- A digit's value where check 3 of R142 has passed; a non-digit, which that check excludes, counts 0. -/
def digitValue (c : Byte) : Nat := (hexDigit c).getD 0

/-- Two digits as a byte, `16*digit(c0) + digit(c1)` (R83). -/
def hexByte (c0 c1 : Byte) : Byte := BitVec.ofNat 8 (16 * digitValue c0 + digitValue c1)

/-- The bytes of a digit string, two digits each (R143). A last digit without a partner, which check 4 of R142 excludes, is
left out. -/
def hexBytes : Text → Bytes
  | c0 :: c1 :: rest => hexByte c0 c1 :: hexBytes rest
  | _ => []

/-- The upper-case ASCII digit of a value below 16 (R83: both cases are read; the encoder writes upper case, log 20). -/
def digitChar (n : Nat) : Byte := BitVec.ofNat 8 (if n < 10 then 0x30 + n else 0x41 + (n - 10))

/-- A byte as two digits, the high nibble first (R55, R83). -/
def hexPair (b : Byte) : Text := [digitChar (b.toNat / 16), digitChar (b.toNat % 16)]

/-- Bytes as a digit string. -/
def hexText (bs : Bytes) : Text := bs.flatMap hexPair

/-! ### Byte classes -/

/-- The OPSEL codes that select an operation, 0x01 to 0x0E (R97). -/
def opselAssigned (code : Byte) : Bool := decide (1 ≤ code.toNat) && decide (code.toNat ≤ 14)

/-- The opcodes that name a bootloader operation, 0x01 to 0x05 (R74, R77). -/
def opcodeKnown (op : Byte) : Bool := decide (1 ≤ op.toNat) && decide (op.toNat ≤ 5)

/-- The record types with a name, 0x00 to 0x05 (R86). -/
def recordTypeKnown (tt : Byte) : Bool := decide (tt.toNat ≤ 5)

/-- The three bytes with a meaning of their own in a frame: `IsSpecial` of 42_framing.md. -/
def isSpecial (b : Byte) : Bool :=
  b == Config.startByte || b == Config.endByte || b == Config.escapeByte

end Sys2Proof
end

