-- ==== Sys2Proof/Syntax.lean ====
section
/-! DEFINITION. The block's instructions at their four levels (30_encoding.md, R97, R74, R86, R71), one constructor of `Instr`
per row of the opcode table, and the forms in which each level writes them. -/

namespace Sys2Proof

/-- One of the five bootloader operations with its fields (R74, R172). -/
inductive Request where
  | readBootInfo
  | eraseFlash
  /-- The raw record bytes, any byte sequence (R183). -/
  | programFlash (recordBytes : Bytes)
  | readCrc (address length : U32)
  | jumpToApp
deriving DecidableEq, Repr

/-- A hex input (R82): a sequence of lines used as it is, or one byte stream that is split at LF. -/
inductive HexText where
  | lines (ls : List Text)
  | stream (bytes : Bytes)
deriving DecidableEq, Repr

/-- The block's instructions: one constructor per row of the opcode table (R99). -/
inductive Instr where
  -- operations of the operation port, by OPSEL (R97)
  /-- OPSEL 0x01 (R103). -/
  | crcStep (b : Byte) (st : U16)
  /-- OPSEL 0x02 (R104). -/
  | crcCompute (d : Bytes)
  /-- OPSEL 0x03 (R120). -/
  | frameEncode (payload : Bytes)
  /-- OPSEL 0x04 (R123). -/
  | frameDecode (input : Bytes)
  /-- OPSEL 0x05 (R140). -/
  | hexLineParse (line : Text)
  /-- OPSEL 0x06 (R146). -/
  | hexFileParse (src : HexText)
  /-- OPSEL 0x07 (R172). -/
  | requestEncode (req : Request)
  /-- OPSEL 0x08 (R177). -/
  | responseDecode (r : Bytes) (timedOut : Bool)
  /-- OPSEL 0x09 (R181). -/
  | readBootInfo
  /-- OPSEL 0x0A (R182). -/
  | eraseFlash
  /-- OPSEL 0x0B (R183). -/
  | programFlash (recordBytes : Bytes)
  /-- OPSEL 0x0C (R185). -/
  | readCrc (address length : U32)
  /-- OPSEL 0x0D (R187). -/
  | jumpToApp
  /-- OPSEL 0x0E (R210), over the window `[start, stop)`. -/
  | rangeCrc (src : HexText) (start stop : Nat)
  /-- OPSEL 0x00 and 0x0F to 0xFF (R97, R239). -/
  | opselUnknown (code : Byte)
  -- request messages, by body[0] (R74, R75)
  | reqReadBootInfo
  | reqEraseFlash
  | reqProgramFlash (recordBytes : Bytes)
  | reqReadCrc (address length : U32)
  | reqJumpToApp
  -- response messages, by body[0], with the rest of the body (R76, R179)
  | rspReadBootInfo (rest : Bytes)
  | rspEraseFlash (rest : Bytes)
  | rspProgramFlash (rest : Bytes)
  | rspReadCrc (rest : Bytes)
  | rspJumpToApp (rest : Bytes)
  /-- An empty body, or one whose first byte names no operation (R77, R233). -/
  | rspUnrecognized (body : Bytes)
  -- Intel-HEX records, by TT, with address and data fields (R84, R86)
  | recData (address : U16) (data : Bytes)
  | recEndOfFile (address : U16) (data : Bytes)
  | recExtSegmentAddr (address : U16) (data : Bytes)
  | recStartSegmentAddr (address : U16) (data : Bytes)
  | recExtLinearAddr (address : U16) (data : Bytes)
  | recStartLinearAddr (address : U16) (data : Bytes)
  /-- TT 0x06 to 0xFF (R156). -/
  | recUnknown (recordType : Byte) (address : U16) (data : Bytes)
  -- frame symbols (R71)
  | frameStart
  | frameEnd
  | frameEscape
  | frameLiteral (b : Byte)
deriving DecidableEq, Repr

/-- The operands at the operation port, each of the type R97 gives it (R98). -/
inductive Operands where
  | none
  | step (b : Byte) (st : U16)
  | bytes (d : Bytes)
  | line (l : Text)
  | hex (src : HexText)
  | request (req : Request)
  | response (r : Bytes) (timedOut : Bool)
  | window (address length : U32)
  | range (src : HexText) (start stop : Nat)
deriving DecidableEq, Repr

/-- What the host presents at the operation port: an operation selector and its operands (R29). -/
structure Presentation where
  opsel : Byte
  operands : Operands
deriving DecidableEq, Repr

/-- An instruction as it is written, at one of the four levels of encoding (R99). -/
inductive Code where
  /-- At the operation port (R97). -/
  | port (p : Presentation)
  /-- A request body, before its CRC trailer (R75). -/
  | request (body : Bytes)
  /-- A response body, after its CRC trailer is checked and taken off (R76). -/
  | response (body : Bytes)
  /-- A line of a hex text (R84). -/
  | record (line : Text)
  /-- One byte of a frame (R71). -/
  | symbol (b : Byte)
deriving DecidableEq, Repr

end Sys2Proof
end

