-- ==== Sys2Proof/Machine/State.lean ====
section
/-! DEFINITION. What the block holds and what it shows (10_state.md): unit registers, configuration, ports; the outcomes, errors
and events of 00_scope.md R15 and 60_exceptions.md; the state after reset (R34, R270, R271). -/

namespace Sys2Proof.Machine

open Sys2Proof.Config

/-! ### Outcomes (R15) -/

/-- The fields of a parsed record line (R140, R143). -/
structure Record where
  byteCount : Byte
  address : U16
  recordType : Byte
  data : Bytes
  checksum : Byte
deriving DecidableEq, Repr

/-- The tagged value a response decodes to (R97, R179). -/
inductive Response where
  | readBootInfo (version : U16)
  | eraseFlash
  | programFlash
  | readCrc (crc : U16)
  | jumpToApp
deriving DecidableEq, Repr

/-- The success results of R97. -/
inductive Value where
  /-- CRC_STEP, CRC_COMPUTE, RANGE_CRC. -/
  | word (v : U16)
  /-- FRAME_ENCODE, REQUEST_ENCODE. -/
  | frame (f : Bytes)
  /-- FRAME_DECODE: the payload and the remainder (R123, R125). -/
  | decoded (payload remainder : Bytes)
  /-- HEX_LINE_PARSE of a blank or comment line (R141). -/
  | skip
  /-- HEX_LINE_PARSE of a record line. -/
  | record (r : Record)
  /-- HEX_FILE_PARSE at the end of its lines (R148). -/
  | window (startAddr endAddr : Option Nat)
  /-- HEX_FILE_PARSE ended by its consumer (R151). -/
  | stopped
  /-- RESPONSE_DECODE and the reading session operations. -/
  | response (r : Response)
  /-- JUMP_TO_APP. -/
  | nothing
deriving DecidableEq, Repr

/-- FramingError details (R231). -/
inductive FramingDetail where
  | missingStart
  | missingEnd
  | badLength
deriving DecidableEq, Repr

/-- CrcMismatchError details (R232). -/
inductive CrcDetail where
  | short
  | mismatch
deriving DecidableEq, Repr

/-- HexFormatError details (R235). -/
inductive HexDetail where
  | tooShort
  | badStart
  | badDigit
  | lengthMismatch
  | checksum
  | unknownType
  | badElaLength
  | dataAfterEof
deriving DecidableEq, Repr

/-- The five error kinds with their details (R230 to R235). -/
inductive Err where
  | framing (d : FramingDetail)
  | crcMismatch (d : CrcDetail)
  /-- With the offending opcode, or none for an empty body (R233). -/
  | unrecognizedOp (op : Option Byte)
  | noResponse
  | hexFormat (d : HexDetail)
deriving DecidableEq, Repr

/-- The reasons of a refusal outcome (R239). -/
inductive RefusalReason where
  | unknownOperation
  | rangeNonMonotonic
deriving DecidableEq, Repr

/-- What an operation returns to the host (R15). An error or a refusal is an outcome like a success: the block is idle after it
and goes on (R236, R239, R240; log 14). -/
inductive Result where
  | ok (v : Value)
  | err (e : Err)
  | refused (r : RefusalReason)
deriving DecidableEq, Repr

/-! ### Events (R35, R61) -/

/-- Who is wired to the emission port (R30): the host in HEX_FILE_PARSE, the range-CRC unit in RANGE_CRC. -/
inductive Consumer where
  | host
  | range
deriving DecidableEq, Repr

/-- What the block makes visible (R35), each with the answer it got. -/
inductive Event where
  /-- The outcome returned on the operation port (R29). -/
  | outcome (r : Result)
  /-- `Emit(a, v)` on the emission port and its consumer's answer (R30, R52). -/
  | emit (consumer : Consumer) (a : Nat) (v : Byte) (answer : EmitAnswer)
  /-- `TxWrite(f)` (R31). -/
  | txWrite (f : Bytes)
  /-- `TxRead(n, t)` and its answer `(r, timedOut)` (R31). -/
  | txRead (n t : Nat) (r : Bytes) (timedOut : Bool)
deriving DecidableEq, Repr

/-! ### Unit registers -/

/-- CRC_COMPUTE's registers (R21, R23). -/
structure CrcUnit where
  /-- `CRC.acc`. -/
  acc : U16
  /-- The input position. -/
  pos : Nat
deriving DecidableEq, Repr

/-- The decoder's phases (R25, R124). -/
inductive FramePhase where
  | expectStart
  | inFrame
  | done
deriving DecidableEq, Repr

/-- FRAME_DECODE's registers (R25, R33). -/
structure FrmUnit where
  /-- `FRM.phase`. -/
  phase : FramePhase
  /-- `FRM.escaping`. -/
  escaping : Bool
  /-- `FRM.out`. -/
  out : Bytes
  /-- The input position. -/
  pos : Nat
  /-- The operand `d` under scan, immutable (R63, R123; the model's latch, log 9). -/
  input : Bytes
  /-- `rem`, set when the terminating END is consumed (R124, R125). -/
  rem : Bytes
deriving DecidableEq, Repr

/-- FRAME_ENCODE's registers: "only `pos` and its output sequence" (R25). -/
structure EncUnit where
  pos : Nat
  out : Bytes
deriving DecidableEq, Repr

/-- The stream parser's registers, one set per pass (R26). -/
structure HexUnit where
  /-- `HEX.xaddr`. -/
  xaddr : U32
  /-- `HEX.eofSeen`. -/
  eofSeen : Bool
  /-- `HEX.startAddr`, absent until a Data record is seen. -/
  startAddr : Option Nat
  /-- `HEX.endAddr`, absent until a Data record is completed. -/
  endAddr : Option Nat
  /-- The line index. -/
  pos : Nat
  /-- Who answers this pass's emissions (R30). -/
  consumer : Consumer
deriving DecidableEq, Repr

/-- RANGE_CRC's registers (R27). -/
structure RngUnit where
  /-- `RNG.crc`. -/
  crc : U16
  /-- `RNG.cursor`, unset until the first in-window byte. -/
  cursor : Option Nat
  /-- `RNG.start`. -/
  start : Nat
  /-- `RNG.end`. -/
  stop : Nat
  /-- `RNG.stopped`. -/
  stopped : Bool
  /-- `RNG.refused`. -/
  refused : Bool
deriving DecidableEq, Repr

/-- What SES latches during one exchange (R28, R174). -/
structure SesUnit where
  /-- `SES.op`. -/
  op : Byte
  /-- The bytes of the single transport read. -/
  rx : Bytes
  /-- Whether that read timed out. -/
  timedOut : Bool
deriving DecidableEq, Repr

/-- CRC registers after reset: `CRC.acc` is CRC_INIT (R34). -/
def CrcUnit.reset (crcInit : U16) : CrcUnit where
  acc := crcInit
  pos := 0

/-- FRM decoder registers after reset (R34). -/
def FrmUnit.reset : FrmUnit where
  phase := .expectStart
  escaping := false
  out := []
  pos := 0
  input := []
  rem := []

/-- FRM encoder registers after reset (R34; the empty output is log 9). -/
def EncUnit.reset : EncUnit where
  pos := 0
  out := []

/-- HEX registers after reset (R34). -/
def HexUnit.reset : HexUnit where
  xaddr := 0#32
  eofSeen := false
  startAddr := none
  endAddr := none
  pos := 0
  consumer := .host

/-- RNG registers after reset (R34; the window 0, 0 is a DESIGN CHOICE, log 9). -/
def RngUnit.reset (crcInit : U16) : RngUnit where
  crc := crcInit
  cursor := none
  start := 0
  stop := 0
  stopped := false
  refused := false

/-- SES registers after reset (R34 "none"; the values are a DESIGN CHOICE, log 9). -/
def SesUnit.reset : SesUnit where
  op := 0x00#8
  rx := []
  timedOut := false

/-! ### The state -/

/-- The whole block: configuration, unit registers, ports, and what it has shown so far. -/
structure State where
  /-- The configuration record, latched at reset (R22, R270). -/
  config : Configuration
  /-- CRC unit (R23). -/
  crc : CrcUnit
  /-- Frame decoder (R25). -/
  frm : FrmUnit
  /-- Frame encoder (R25). -/
  enc : EncUnit
  /-- Hex stream parser (R26). -/
  hex : HexUnit
  /-- Range-CRC unit (R27). -/
  rng : RngUnit
  /-- Session unit (R28). -/
  ses : SesUnit
  /-- Operation port (R29): the head is the operation presented now; it leaves when its outcome is returned. -/
  port : List Presentation
  /-- The host consumer's coming answers on the emission port (R30; log 6). -/
  answers : List EmitAnswer
  /-- The transport's coming answers to reads (R31; log 5). -/
  transport : List ReadAnswer
  /-- The model's own counter: the index of the next free value drawn (log 7). -/
  draws : Nat
  /-- Everything the block has made visible, in order (R35, R61). -/
  trace : List Event
deriving DecidableEq, Repr

/-- Why the machine stops. The block's own errors are outcomes and stop nothing (R236, R240). -/
inductive Fault where
  /-- Raised by `step` when the operands presented are not of the type R97 gives the OPSEL, which R98 says "cannot be
  presented": no behaviour of the block is lost. Safe (log 15). -/
  | mistypedOperands
deriving DecidableEq, Repr

/-- Why an instruction has no meaning. -/
inductive Refusal where
  /-- Raised by an arm of `exec` for an instruction without a meaning yet; every instruction has one, so no arm raises it.
  Safe. -/
  | notModelled (mnemonic : String)
deriving DecidableEq, Repr

/-- The block right after its one reset, with configuration `c` supplied (R270, R271): every unit register reset (R34), idle,
nothing presented, nothing shown. -/
def State.resetWith (c : Configuration) : State where
  config := c
  crc := CrcUnit.reset c.crcInit
  frm := FrmUnit.reset
  enc := EncUnit.reset
  hex := HexUnit.reset
  rng := RngUnit.reset c.crcInit
  ses := SesUnit.reset
  port := []
  answers := []
  transport := []
  draws := 0
  trace := []

/-- The block right after reset with every parameter at its default (R10, R34, R270). -/
def State.reset : State := State.resetWith Configuration.default

end Sys2Proof.Machine
end

