-- ==== Sys2Proof/Machine/Ops.lean ====
section
/-! DEFINITION. The named operations every meaning is built from: starting and ending an operation, raising an error and
refusing (60_exceptions.md R236, R239, R240), the three ports (10_state.md §3), and the image space the emission port writes
(20_memory.md). -/

namespace Sys2Proof.Machine

open Sys2Proof.Config

/-! ### Starting and ending an operation -/

/-- Every unit register at its reset value (R34). -/
def State.clearUnits (s : State) : State :=
  { s with
    crc := CrcUnit.reset s.config.crcInit
    frm := FrmUnit.reset
    enc := EncUnit.reset
    hex := HexUnit.reset
    rng := RngUnit.reset s.config.crcInit
    ses := SesUnit.reset }

/-! Writing a unit's registers. -/

/-- The decoder's registers are written. -/
def State.withFrm (s : State) (f : FrmUnit) : State := { s with frm := f }

/-- The stream parser's registers are written. -/
def State.withHex (s : State) (h : HexUnit) : State := { s with hex := h }

/-- The range-CRC unit's registers are written. -/
def State.withRng (s : State) (r : RngUnit) : State := { s with rng := r }

/-- The session's registers are written. -/
def State.withSes (s : State) (u : SesUnit) : State := { s with ses := u }

/-- One event becomes visible (R35, R61). -/
def State.note (s : State) (e : Event) : State := { s with trace := s.trace ++ [e] }

/-- The outcome is returned on the operation port and the presentation it answers leaves the port (R29). -/
def State.deliver (s : State) (r : Result) : State :=
  { s with port := s.port.tail, trace := s.trace ++ [.outcome r] }

/-- An operation starts: the unit registers are set to their reset values (R272). This is also the whole of the block's return
from an error: "no state to restore", the next operation starts afresh (R240). -/
def State.begin (s : State) : State := s.clearUnits

/-- An operation that used unit registers ends with outcome `r`: the registers are discarded (R34, R236) and the outcome is
returned. -/
def State.finish (s : State) (r : Result) : State := s.clearUnits.deliver r

/-- `raise e`, the block's taking of an exception (R14, R236): the operation ends, its registers are discarded, nothing is
saved, `Err` is returned, and the events already made stay made. -/
def State.raise (s : State) (e : Err) : State := s.finish (.err e)

/-- `refuse reason` (R14, R239): the same effects as an error, with a refusal outcome (log 14). -/
def State.refuse (s : State) (r : RefusalReason) : State := s.finish (.refused r)

/-! ### Numeric codes of errors and refusals (R230 to R235, R239) -/

/-- The kind code (R230). -/
def Err.kindCode : Err → Nat
  | .framing _ => 1
  | .crcMismatch _ => 2
  | .unrecognizedOp _ => 3
  | .noResponse => 4
  | .hexFormat _ => 5

/-- The FramingError detail code (R231). -/
def FramingDetail.code : FramingDetail → Nat
  | .missingStart => 1
  | .missingEnd => 2
  | .badLength => 3

/-- The CrcMismatchError detail code (R232). -/
def CrcDetail.code : CrcDetail → Nat
  | .short => 1
  | .mismatch => 2

/-- The HexFormatError detail code (R235). -/
def HexDetail.code : HexDetail → Nat
  | .tooShort => 1
  | .badStart => 2
  | .badDigit => 3
  | .lengthMismatch => 4
  | .checksum => 5
  | .unknownType => 6
  | .badElaLength => 7
  | .dataAfterEof => 8

/-- The detail of an error: a code, the offending opcode byte, or `none` for an empty body (R231 to R235). -/
def Err.detailCode : Err → Option Nat
  | .framing d => some d.code
  | .crcMismatch d => some d.code
  | .unrecognizedOp op => op.map BitVec.toNat
  | .noResponse => some 0
  | .hexFormat d => some d.code

/-- The reason code of a refusal (R239). -/
def RefusalReason.code : RefusalReason → Nat
  | .unknownOperation => 1
  | .rangeNonMonotonic => 2

/-! ### The transport port (R31) -/

/-- The transport's next answer: the next one the State lists, else a free value (log 5). -/
def State.nextRead (s : State) : ReadAnswer :=
  match s.transport with
  | a :: _ => a
  | [] => drawRead s.draws

/-- The state with that answer used up. -/
def State.dropRead (s : State) : State :=
  match s.transport with
  | _ :: rest => { s with transport := rest }
  | [] => { s with draws := s.draws + 1 }

/-- `TxWrite(f)`: the whole frame in one write, which returns nothing and signals no error (R31, R173). -/
def State.txWrite (s : State) (f : Bytes) : State := s.note (.txWrite f)

/-- `TxRead(READ_MAX, TIMEOUT_MS)`: one read of at most READ_MAX bytes, latched by SES (R28, R31, R174). A longer answer cannot
come from the port: it is cut to READ_MAX (log 5). -/
def State.txRead (s : State) : State :=
  let a := s.nextRead
  let r := a.bytes.take s.config.readMax
  { s.dropRead with
    ses := { s.ses with rx := r, timedOut := a.timedOut }
    trace := s.trace ++ [.txRead s.config.readMax s.config.timeoutMs r a.timedOut] }

/-! ### The emission port with the host as its consumer (R30) -/

/-- The host consumer's next answer: the next one the State lists, else a free value (log 6). -/
def State.nextAnswer (s : State) : EmitAnswer :=
  match s.answers with
  | a :: _ => a
  | [] => drawEmit s.draws

/-- The state with that answer used up. -/
def State.dropAnswer (s : State) : State :=
  match s.answers with
  | _ :: rest => { s with answers := rest }
  | [] => { s with draws := s.draws + 1 }

/-- `Emit(a, v)` to the host (R30, R52): the event, with the answer the host gives. -/
def State.emitHost (s : State) (a : Nat) (v : Byte) : State :=
  { s.dropAnswer with trace := s.trace ++ [.emit .host a v s.nextAnswer] }

/-! ### The image space (R50 to R53)

The block keeps no copy of the image (R52). What its emissions have written is a view of its events (log 11): a memory in one
canonical form, in which an address that was never written reads as 0xFF (R53). -/

/-- The image space as a sparse memory: addresses strictly rising, no entry equal to `erased`. -/
abbrev Memory := List Host.Cell

/-- Reading one byte of the image space; an unwritten byte is 0xFF (R53). -/
def Memory.read : Memory → Nat → Byte
  | [], _ => erased
  | (b, w) :: rest, a => if a = b then w else Memory.read rest a

/-- `MemWrite(a, 1, v)` on the image space (R14, R52), keeping the canonical form. -/
def Memory.write : Memory → Nat → Byte → Memory
  | [], a, v => if v = erased then [] else [(a, v)]
  | (b, w) :: rest, a, v =>
    if a < b then (if v = erased then (b, w) :: rest else (a, v) :: (b, w) :: rest)
    else if a = b then (if v = erased then rest else (a, v) :: rest)
    else (b, w) :: Memory.write rest a v

/-- The canonical form: addresses strictly rising from `lo` on, no entry equal to what an unwritten address reads as. -/
def Memory.wfFrom : Nat → Memory → Bool
  | _, [] => true
  | lo, (b, w) :: rest => decide (lo ≤ b) && decide (w ≠ erased) && Memory.wfFrom (b + 1) rest

/-- The canonical form of a memory. -/
def Memory.wf (m : Memory) : Bool := Memory.wfFrom 0 m

/-- The image a sequence of emissions writes, the later write winning (R52). -/
def imageOf (ws : List (Nat × Byte)) : Memory := ws.foldl (fun m w => m.write w.1 w.2) []

/-- The byte a consumer received with an event, if the event is an emission to that consumer. -/
def Event.emission (c : Consumer) : Event → Option (Nat × Byte)
  | .emit c' a v _ => if c' = c then some (a, v) else none
  | _ => none

/-- The emissions to a consumer among events, in order (R61). -/
def emissionsTo (c : Consumer) (es : List Event) : List (Nat × Byte) := es.filterMap (Event.emission c)

/-- The image space as the emissions to the host have written it (R50, R52). -/
def State.image (s : State) : Memory := imageOf (emissionsTo .host s.trace)

/-- One byte of the image space. -/
def State.imageByte (s : State) (a : Nat) : Byte := s.image.read a

end Sys2Proof.Machine
end

