-- ==== Sys2Proof/Machine/HexLine.lean ====
section
/-! DEFINITION. The Intel-HEX line parser (43_hex.md §1): HEX_LINE_PARSE, a pure function of the line. -/

namespace Sys2Proof.Machine

open Sys2Proof.Config

/-- `:`, the record mark (R81, R84). -/
def colon : Byte := 0x3A#8

/-- `#`, the comment mark (R81). -/
def hash : Byte := 0x23#8

/-- The strip set of R141: SP, HT, LF, VT, FF, CR. -/
def isBlank (c : Byte) : Bool :=
  c == 0x20#8 || c == 0x09#8 || c == 0x0A#8 || c == 0x0B#8 || c == 0x0C#8 || c == 0x0D#8

/-- `Strip(line)` (R141): leading and trailing white space off, inner characters kept. -/
def strip (line : Text) : Text := ((line.dropWhile isBlank).reverse.dropWhile isBlank).reverse

/-- What a line without error is (R140). -/
inductive Parsed where
  | skip
  | record (r : Record)
deriving DecidableEq, Repr

/-- `n = byte(s[1], s[2])`, the byte count BB of a stripped line (R84, R142). -/
def lineCount (t : Text) : Nat := (hexByte (t.getD 1 0#8) (t.getD 2 0#8)).toNat

/-- The checks of R142 in their order, the first that fails giving its detail. -/
def lineCheck (t : Text) : Option HexDetail :=
  if t.length < hexMinLine then some .tooShort
  else if t.getD 0 0#8 ≠ colon then some .badStart
  else if (t.drop 1).any (fun c => !isHexDigit c) then some .badDigit
  else if t.length ≠ hexMinLine + 2 * lineCount t then some .lengthMismatch
  else none

/-- The bytes `r` of a stripped line that passed R142 (R143). -/
def lineBytes (t : Text) : Bytes := hexBytes (t.drop 1)

/-- `Σ r[i]`, exact (R144). -/
def byteSum (r : Bytes) : Nat := (r.map BitVec.toNat).sum

/-- The fields of a record's bytes (R143). -/
def recordOf (r : Bytes) : Record where
  byteCount := r.getD 0 0#8
  address := ofBe16 (r.getD 1 0#8) (r.getD 2 0#8)
  recordType := r.getD 3 0#8
  data := (r.drop 4).take (r.getD 0 0#8).toNat
  checksum := r.getD (4 + (r.getD 0 0#8).toNat) 0#8

/-- `HexLineParse(line)` (R140). -/
def hexLineParse (line : Text) : Except HexDetail Parsed :=
  let t := strip line
  if t.isEmpty || t.getD 0 0#8 == hash then .ok .skip
  else
    match lineCheck t with
    | some d => .error d
    | none =>
      let r := lineBytes t
      if byteSum r % 256 ≠ 0 then .error .checksum else .ok (.record (recordOf r))

/-- `RecordBytes(line)` (R157): the bytes of a record line that passes R142 and R144. -/
def recordBytes (line : Text) : Option Bytes :=
  match hexLineParse line with
  | .ok (.record _) => some (lineBytes (strip line))
  | _ => none

/-- The line parser's result as a success value (R140). -/
def Parsed.value : Parsed → Value
  | .skip => .skip
  | .record r => .record r

/-- HEX_LINE_PARSE (R140): "the parser holds no state". -/
def execHexLineParse (line : Text) (s : State) : Host.Outcome State Fault Refusal :=
  .next
    (match hexLineParse line with
    | .ok p => s.deliver (.ok p.value)
    | .error d => s.raise (.hexFormat d))

end Sys2Proof.Machine
end

