-- ==== Sys2Proof/Machine/Operands.lean ====
section
/-! DEFINITION. The operand forms of the operation port and of the messages: the lines of a hex input (R82), request opcodes and
bodies (R74, R75), operands of zeros. -/

namespace Sys2Proof

/-- LF, the line separator of a byte stream (R82). -/
def lineFeed : Byte := 0x0A#8

/-- A byte stream split at each LF; a final segment with no LF after it is a line too (R82; an empty one holds no character and
is not listed, log 17). `cur` is the segment read so far. -/
def splitLines (cur : Text) : Bytes → List Text
  | [] => if cur.isEmpty then [] else [cur]
  | b :: rest => if b = lineFeed then cur :: splitLines [] rest else splitLines (cur ++ [b]) rest

/-- The lines of a hex input in either of its forms (R82). -/
def HexText.toLines : HexText → List Text
  | .lines ls => ls
  | .stream bs => splitLines [] bs

/-- The opcode of a bootloader operation (R74). -/
def Request.opcode : Request → Byte
  | .readBootInfo => 0x01#8
  | .eraseFlash => 0x02#8
  | .programFlash _ => 0x03#8
  | .readCrc _ _ => 0x04#8
  | .jumpToApp => 0x05#8

/-- The operation-specific fields of a request, after the opcode (R75, R78). -/
def Request.fields : Request → Bytes
  | .readBootInfo => []
  | .eraseFlash => []
  | .programFlash recordBytes => recordBytes
  | .readCrc address length => le32 address ++ le32 length
  | .jumpToApp => []

/-- The request body, `[opcode] ++ fields` (R75, R172). -/
def Request.body (req : Request) : Bytes := req.opcode :: req.fields

/-- The operands whose every bit is 0, of the type R97 gives the OPSEL: zero numbers, empty sequences, a false flag, and the
first of the five operation names (log 2). -/
def Operands.zeros (opsel : Byte) : Operands :=
  match opsel.toNat with
  | 0x01 => .step 0#8 0#16
  | 0x02 => .bytes []
  | 0x03 => .bytes []
  | 0x04 => .bytes []
  | 0x05 => .line []
  | 0x06 => .hex (.lines [])
  | 0x07 => .request .readBootInfo
  | 0x08 => .response [] false
  | 0x0B => .bytes []
  | 0x0C => .window 0#32 0#32
  | 0x0E => .range (.lines []) 0 0
  | _ => .none

end Sys2Proof
end

