-- ==== Sys2Proof/WellFormed.lean ====
section
/-! DEFINITION. Which instructions have an encoding: the checks that the types of `Instr` do not make by themselves. -/

namespace Sys2Proof

/-- A record's data fits its byte count BB (R84). -/
def dataFits (data : Bytes) : Bool := decide (data.length ≤ Config.hexByteCountMax)

/-- The instruction has an encoding of its own row. -/
def Instr.wellFormed : Instr → Bool
  | .opselUnknown code => !opselAssigned code
  | .rspUnrecognized [] => true
  | .rspUnrecognized (op :: _) => !opcodeKnown op
  | .recData _ data => dataFits data
  | .recEndOfFile _ data => dataFits data
  | .recExtSegmentAddr _ data => dataFits data
  | .recStartSegmentAddr _ data => dataFits data
  | .recExtLinearAddr _ data => dataFits data
  | .recStartLinearAddr _ data => dataFits data
  | .recUnknown tt _ data => !recordTypeKnown tt && dataFits data
  | .frameLiteral b => !isSpecial b
  | .crcStep _ _ | .crcCompute _ | .frameEncode _ | .frameDecode _ | .hexLineParse _ | .hexFileParse _ | .requestEncode _
  | .responseDecode _ _ | .readBootInfo | .eraseFlash | .programFlash _ | .readCrc _ _ | .jumpToApp | .rangeCrc _ _ _
  | .reqReadBootInfo | .reqEraseFlash | .reqProgramFlash _ | .reqReadCrc _ _ | .reqJumpToApp
  | .rspReadBootInfo _ | .rspEraseFlash _ | .rspProgramFlash _ | .rspReadCrc _ | .rspJumpToApp _
  | .frameStart | .frameEnd | .frameEscape => true

end Sys2Proof
end

