-- ==== Sys2Proof/Decode.lean ====
section
/-! DEFINITION. Decoding and encoding at the four levels (30_encoding.md; R99): total, rejecting by name. The fixed function
`decodeTableWord` reads a table word at the operation port (log 1, log 2). -/

namespace Sys2Proof

open Sys2Proof.Machine

/-- Why something written is no instruction. -/
inductive DecodeError where
  /-- At the operation port: operands not of the OPSEL's type (R98). -/
  | mistypedOperands
  /-- A request body without an opcode byte (R75). -/
  | emptyRequest
  /-- A request body whose first byte names no operation (R77). -/
  | unknownRequestOpcode
  /-- A request body of a length R75 does not give its opcode. -/
  | requestLength
  /-- A blank or comment line: no record (R141). -/
  | notARecord
  /-- A line that raises HexFormatError (R142, R144). -/
  | badLine (d : HexDetail)
deriving DecidableEq, Repr

/-! ### Operation port (R97) -/

/-- The operation a presentation selects. -/
def decodePort (p : Presentation) : Except DecodeError Instr :=
  match p.opsel.toNat with
  | 0x01 => match p.operands with | .step b st => .ok (.crcStep b st) | _ => .error .mistypedOperands
  | 0x02 => match p.operands with | .bytes d => .ok (.crcCompute d) | _ => .error .mistypedOperands
  | 0x03 => match p.operands with | .bytes d => .ok (.frameEncode d) | _ => .error .mistypedOperands
  | 0x04 => match p.operands with | .bytes d => .ok (.frameDecode d) | _ => .error .mistypedOperands
  | 0x05 => match p.operands with | .line l => .ok (.hexLineParse l) | _ => .error .mistypedOperands
  | 0x06 => match p.operands with | .hex src => .ok (.hexFileParse src) | _ => .error .mistypedOperands
  | 0x07 => match p.operands with | .request req => .ok (.requestEncode req) | _ => .error .mistypedOperands
  | 0x08 => match p.operands with | .response r t => .ok (.responseDecode r t) | _ => .error .mistypedOperands
  | 0x09 => match p.operands with | .none => .ok .readBootInfo | _ => .error .mistypedOperands
  | 0x0A => match p.operands with | .none => .ok .eraseFlash | _ => .error .mistypedOperands
  | 0x0B => match p.operands with | .bytes d => .ok (.programFlash d) | _ => .error .mistypedOperands
  | 0x0C => match p.operands with | .window a l => .ok (.readCrc a l) | _ => .error .mistypedOperands
  | 0x0D => match p.operands with | .none => .ok .jumpToApp | _ => .error .mistypedOperands
  | 0x0E => match p.operands with | .range src a b => .ok (.rangeCrc src a b) | _ => .error .mistypedOperands
  | _ => .ok (.opselUnknown p.opsel)

/-! ### Request bodies (R75) -/

/-- The fields of a ReadCrc request: two u32, little-endian (R75, R78). -/
def decodeReadCrcFields : Bytes → Except DecodeError Instr
  | [a0, a1, a2, a3, l0, l1, l2, l3] => .ok (.reqReadCrc (ofLe32 a0 a1 a2 a3) (ofLe32 l0 l1 l2 l3))
  | _ => .error .requestLength

/-- A request whose body is its opcode alone (R75). -/
def decodeBare (i : Instr) : Bytes → Except DecodeError Instr
  | [] => .ok i
  | _ => .error .requestLength

/-- The request a body stands for. -/
def decodeRequest : Bytes → Except DecodeError Instr
  | [] => .error .emptyRequest
  | op :: rest =>
    match op.toNat with
    | 0x01 => decodeBare .reqReadBootInfo rest
    | 0x02 => decodeBare .reqEraseFlash rest
    | 0x03 => .ok (.reqProgramFlash rest)
    | 0x04 => decodeReadCrcFields rest
    | 0x05 => decodeBare .reqJumpToApp rest
    | _ => .error .unknownRequestOpcode

/-! ### Response bodies (R76, R77) -/

/-- The response a body stands for; its length is checked by its meaning (R179). -/
def decodeResponseBody : Bytes → Instr
  | [] => .rspUnrecognized []
  | op :: rest =>
    match op.toNat with
    | 0x01 => .rspReadBootInfo rest
    | 0x02 => .rspEraseFlash rest
    | 0x03 => .rspProgramFlash rest
    | 0x04 => .rspReadCrc rest
    | 0x05 => .rspJumpToApp rest
    | _ => .rspUnrecognized (op :: rest)

/-! ### Records (R84, R86) -/

/-- The instruction of a parsed record, by its type (R86). -/
def decodeRecord (r : Record) : Instr :=
  match r.recordType.toNat with
  | 0x00 => .recData r.address r.data
  | 0x01 => .recEndOfFile r.address r.data
  | 0x02 => .recExtSegmentAddr r.address r.data
  | 0x03 => .recStartSegmentAddr r.address r.data
  | 0x04 => .recExtLinearAddr r.address r.data
  | 0x05 => .recStartLinearAddr r.address r.data
  | _ => .recUnknown r.recordType r.address r.data

/-- The instruction of a line. -/
def decodeLine (line : Text) : Except DecodeError Instr :=
  match hexLineParse line with
  | .ok (.record r) => .ok (decodeRecord r)
  | .ok .skip => .error .notARecord
  | .error d => .error (.badLine d)

/-! ### Frame symbols (R71) -/

/-- The symbol class of a byte of a frame. -/
def decodeSymbol (b : Byte) : Instr :=
  if b = Config.startByte then .frameStart
  else if b = Config.endByte then .frameEnd
  else if b = Config.escapeByte then .frameEscape
  else .frameLiteral b

/-! ### The whole decoder -/

/-- The instruction something written stands for, at its level. -/
def decode : Code → Except DecodeError Instr
  | .port p => decodePort p
  | .request body => decodeRequest body
  | .response body => .ok (decodeResponseBody body)
  | .record line => decodeLine line
  | .symbol b => .ok (decodeSymbol b)

/-! ### Encoder -/

/-- A record's bytes before its checksum: `[n, addrHi, addrLo, TT] ++ data` (R84). -/
def recordHead (tt : Byte) (address : U16) (data : Bytes) : Bytes :=
  BitVec.ofNat 8 data.length :: (be16 address ++ tt :: data)

/-- `CC = (256 - (sum mod 256)) mod 256` (R85). -/
def checksumOf (head : Bytes) : Byte := BitVec.ofNat 8 (256 - byteSum head % 256)

/-- A record line, `:BBAAAATTDD…DDCC` (R80, R84). -/
def encodeRecord (tt : Byte) (address : U16) (data : Bytes) : Text :=
  let head := recordHead tt address data
  colon :: hexText (head ++ [checksumOf head])

/-- How an instruction is written (R74 to R76, R84, R71, R97). -/
def encode : Instr → Code
  | .crcStep b st => .port ⟨0x01#8, .step b st⟩
  | .crcCompute d => .port ⟨0x02#8, .bytes d⟩
  | .frameEncode d => .port ⟨0x03#8, .bytes d⟩
  | .frameDecode d => .port ⟨0x04#8, .bytes d⟩
  | .hexLineParse l => .port ⟨0x05#8, .line l⟩
  | .hexFileParse src => .port ⟨0x06#8, .hex src⟩
  | .requestEncode req => .port ⟨0x07#8, .request req⟩
  | .responseDecode r t => .port ⟨0x08#8, .response r t⟩
  | .readBootInfo => .port ⟨0x09#8, .none⟩
  | .eraseFlash => .port ⟨0x0A#8, .none⟩
  | .programFlash d => .port ⟨0x0B#8, .bytes d⟩
  | .readCrc a l => .port ⟨0x0C#8, .window a l⟩
  | .jumpToApp => .port ⟨0x0D#8, .none⟩
  | .rangeCrc src a b => .port ⟨0x0E#8, .range src a b⟩
  | .opselUnknown code => .port ⟨code, .none⟩
  | .reqReadBootInfo => .request [0x01#8]
  | .reqEraseFlash => .request [0x02#8]
  | .reqProgramFlash d => .request (0x03#8 :: d)
  | .reqReadCrc a l => .request (0x04#8 :: (le32 a ++ le32 l))
  | .reqJumpToApp => .request [0x05#8]
  | .rspReadBootInfo rest => .response (0x01#8 :: rest)
  | .rspEraseFlash rest => .response (0x02#8 :: rest)
  | .rspProgramFlash rest => .response (0x03#8 :: rest)
  | .rspReadCrc rest => .response (0x04#8 :: rest)
  | .rspJumpToApp rest => .response (0x05#8 :: rest)
  | .rspUnrecognized body => .response body
  | .recData a data => .record (encodeRecord 0x00#8 a data)
  | .recEndOfFile a data => .record (encodeRecord 0x01#8 a data)
  | .recExtSegmentAddr a data => .record (encodeRecord 0x02#8 a data)
  | .recStartSegmentAddr a data => .record (encodeRecord 0x03#8 a data)
  | .recExtLinearAddr a data => .record (encodeRecord 0x04#8 a data)
  | .recStartLinearAddr a data => .record (encodeRecord 0x05#8 a data)
  | .recUnknown tt a data => .record (encodeRecord tt a data)
  | .frameStart => .symbol 0x01#8
  | .frameEnd => .symbol 0x04#8
  | .frameEscape => .symbol 0x10#8
  | .frameLiteral b => .symbol b

/-! ### A word of the opcode table, at the operation port -/

/-- What the host presents for an OPSEL byte whose operands are all zeros (log 2). -/
def wordPresentation (w : Nat) : Presentation :=
  ⟨BitVec.ofNat 8 w, Operands.zeros (BitVec.ofNat 8 w)⟩

/-- The instruction read from a table word of one byte, as an OPSEL at the operation port with operands of zeros (log 1). -/
def decodeTableWord (nbits w : Nat) : Option Instr :=
  if nbits = 8 ∧ w < 256 then (decodePort (wordPresentation w)).toOption else none

end Sys2Proof
end

