-- ==== Sys2Proof/Machine/Control.lean ====
section
/-! DEFINITION. The unassigned OPSEL codes (30_encoding.md R97; 60_exceptions.md R239). -/

namespace Sys2Proof.Machine

/-- An OPSEL of 0x00 or 0x0F to 0xFF: `Refused(UnknownOperation)`, and no event (R97, R239, V-OPS-1). -/
def execOpselUnknown (_code : Byte) (s : State) : Host.Outcome State Fault Refusal := .next (s.refuse .unknownOperation)

end Sys2Proof.Machine
end

