-- ==== Sys2Proof/Machine/Crc.lean ====
section
/-! DEFINITION. The CRC-16/CCITT-FALSE engine and its two operations (41_crc.md). -/

namespace Sys2Proof.Machine

open Sys2Proof.Config

/-- The table `CRC.T[0..15]` (R24, R100), a ROM (log 10). -/
def crcTable : List U16 :=
  [0x0000#16, 0x1021#16, 0x2042#16, 0x3063#16, 0x4084#16, 0x50A5#16, 0x60C6#16, 0x70E7#16,
   0x8108#16, 0x9129#16, 0xA14A#16, 0xB16B#16, 0xC18C#16, 0xD1AD#16, 0xE1CE#16, 0xF1EF#16]

/-- `T[i]`; the index is 4 bits and always in range (R105). -/
def crcEntry (i : BitVec 4) : U16 := crcTable.getD i.toNat 0#16

/-- `NibStep(s, n)` (R101). -/
def nibStep (st : U16) (n : BitVec 4) : U16 := (st <<< 4) ^^^ crcEntry (st.extractLsb' 12 4 ^^^ n)

/-- `CrcStep(b, s)` (R103): the high nibble first, then the low nibble. -/
def crcStep (b : Byte) (st : U16) : U16 := nibStep (nibStep st (b.extractLsb' 4 4)) (b.extractLsb' 0 4)

/-- One turn of the bitwise definition's loop (R102). -/
def bitShift (st : U16) : U16 := if st.getLsbD 15 then (st <<< 1) ^^^ crcPoly else st <<< 1

/-- `BitStep(b, s)` (R102), the bitwise definition: not used by the machine, but what claims compare `crcStep` with. -/
def bitStep (b : Byte) (st : U16) : U16 := bitShift^[8] (st ^^^ (b.zeroExtend 16 <<< 8))

/-- `CrcCompute(d)` for an initial value (R104): the fold of the byte step over `d`. -/
def crcCompute (init : U16) (d : Bytes) : U16 := d.foldl (fun acc b => crcStep b acc) init

/-- One turn of CRC_COMPUTE's loop over its registers (R21, R104). -/
def CrcUnit.feed (u : CrcUnit) (b : Byte) : CrcUnit := { acc := crcStep b u.acc, pos := u.pos + 1 }

/-- CRC_COMPUTE's registers after its scan of `d` (R104). -/
def CrcUnit.run (init : U16) (d : Bytes) : CrcUnit := d.foldl CrcUnit.feed (CrcUnit.reset init)

/-- The scan of CRC_COMPUTE with the configured CRC_INIT, used by CRC_COMPUTE, the message trailer and the response check
(R104, R108). The result stands in `CRC.acc`. -/
def State.scanCrc (s : State) (d : Bytes) : State := { s with crc := CrcUnit.run s.config.crcInit d }

/-- Feeding `n` unwritten bytes to a CRC (R53, R212, R213). -/
def crcPad : Nat → U16 → U16
  | 0, st => st
  | n + 1, st => crcPad n (crcStep erased st)

/-- CRC_STEP (R103): combinational, no register read or written. -/
def execCrcStep (b : Byte) (st : U16) (s : State) : Host.Outcome State Fault Refusal :=
  .next (s.deliver (.ok (.word (crcStep b st))))

/-- CRC_COMPUTE (R104). -/
def execCrcCompute (d : Bytes) (s : State) : Host.Outcome State Fault Refusal :=
  let t := s.begin.scanCrc d
  .next (t.finish (.ok (.word t.crc.acc)))

end Sys2Proof.Machine
end

