-- ==== Sys2Proof/Machine/Flags.lean ====
section
/-! DEFINITION. The block's five one-bit flags (10_state.md R32), each with the one rule that sets it. The block has no condition
codes. -/

namespace Sys2Proof.Machine

/-- `FRM.escaping` is set by an unescaped ESCAPE (R32, R124). -/
def FrmUnit.setEscaping (f : FrmUnit) : FrmUnit := { f with escaping := true }

/-- `FRM.escaping` is cleared by the next byte (R32, R124). -/
def FrmUnit.clearEscaping (f : FrmUnit) : FrmUnit := { f with escaping := false }

/-- `HEX.eofSeen` is set by an EndOfFile record (R32, R153). -/
def HexUnit.setEofSeen (h : HexUnit) : HexUnit := { h with eofSeen := true }

/-- The flag "cursor set", that is `RNG.cursor ≠ none` (R32). -/
def RngUnit.cursorSet (r : RngUnit) : Bool := r.cursor.isSome

/-- The first in-window byte sets the cursor to its address; a set cursor stays (R32, R212). -/
def RngUnit.setCursor (r : RngUnit) (a : Nat) : RngUnit := if r.cursorSet then r else { r with cursor := some a }

/-- `RNG.stopped` is set when an emission is at or beyond `end` (R32, R212). -/
def RngUnit.setStopped (r : RngUnit) : RngUnit := { r with stopped := true }

/-- `RNG.refused` is set by a backward in-window emission when RANGE_BACKWARD = refuse (R32, R215). -/
def RngUnit.setRefused (r : RngUnit) : RngUnit := { r with refused := true }

end Sys2Proof.Machine
end

