-- ==== Sys2Proof/Machine/RangeUnit.lean ====
section
/-! DEFINITION. The range-CRC unit as a consumer of emissions: its initial state, `OnByte` and the end padding
(45_range_crc.md R211 to R213, R215). -/

namespace Sys2Proof.Machine

open Sys2Proof.Config

/-- The unit's registers when RANGE_CRC starts on the window `[start, stop)` (R210, R211). -/
def RngUnit.load (crcInit : U16) (start stop : Nat) : RngUnit :=
  { RngUnit.reset crcInit with start := start, stop := stop }

/-- The byte is folded and the cursor moves past it: `RNG.crc <- CrcStep(v, RNG.crc)`, `RNG.cursor <- a + 1` (R212). -/
def RngUnit.fold (r : RngUnit) (a : Nat) (v : Byte) : RngUnit :=
  { r with crc := crcStep v r.crc, cursor := some (a + 1) }

/-- The gap from the cursor `c` up to `a` is fed as 0xFF (R212). -/
def RngUnit.fillGap (r : RngUnit) (c a : Nat) : RngUnit := { r with crc := crcPad (a - c) r.crc }

/-- An in-window byte when the cursor is `c` (R212, R215). -/
def RngUnit.inWindow (mode : RangeBackward) (a : Nat) (v : Byte) (c : Nat) (r : RngUnit) : EmitAnswer × RngUnit :=
  if a < c then
    match mode with
    | .refuse => (.stop, r.setRefused)
    | .fold => (.cont, r.fold a v)
  else (.cont, (r.fillGap c a).fold a v)

/-- `OnByte(a, v)` (R212), its checks in the order shown. -/
def RngUnit.onByte (mode : RangeBackward) (a : Nat) (v : Byte) (r : RngUnit) : EmitAnswer × RngUnit :=
  if a < r.start then (.cont, r)
  else if r.stop ≤ a then (.stop, r.setStopped)
  else RngUnit.inWindow mode a v (r.cursor.getD a) (r.setCursor a)

/-- `PadToEnd()` (R213): from the cursor, or from `start` where no byte fell in the window. -/
def RngUnit.padToEnd (r : RngUnit) : RngUnit :=
  { r with crc := crcPad (r.stop - r.cursor.getD r.start) r.crc }

end Sys2Proof.Machine
end

