-- ==== Sys2Proof/Machine/HexPass.lean ====
section
/-! DEFINITION. The Intel-HEX stream parser (43_hex.md §2, §3): the record rules, one pass over the lines, HEX_FILE_PARSE. -/

namespace Sys2Proof.Machine

open Sys2Proof.Config

/-! ### The emission primitive for either consumer (R30, R52) -/

/-- The answer of the pass's consumer to `Emit(a, v)` (R30). -/
def State.emitAnswer (s : State) (a : Nat) (v : Byte) : EmitAnswer :=
  match s.hex.consumer with
  | .host => s.nextAnswer
  | .range => (s.rng.onByte s.config.rangeBackward a v).1

/-- `Emit(a, v)` to the pass's consumer (R30, R52): the event, and what the range-CRC unit makes of it when it is the consumer. -/
def State.emit (s : State) (a : Nat) (v : Byte) : State :=
  match s.hex.consumer with
  | .host => s.emitHost a v
  | .range =>
    let q := s.rng.onByte s.config.rangeBackward a v
    (s.withRng q.2).note (.emit .range a v q.1)

/-! ### One record -/

/-- How a step of a pass ends. -/
inductive PassStep where
  /-- The pass goes on. -/
  | more (s : State)
  /-- The consumer answered Stop: the pass is over (R151). -/
  | stopped (s : State)
  /-- The line raises HexFormatError: the pass is over (R149). -/
  | failed (d : HexDetail) (s : State)
deriving DecidableEq, Repr

/-- The line at `pos` is consumed (R21). -/
def State.nextLine (s : State) : State := s.withHex { s.hex with pos := s.hex.pos + 1 }

/-- A Data record's emissions, in data order at ascending addresses, until the consumer answers Stop (R61, R150, R151). -/
def emitAll : Nat → Bytes → State → PassStep
  | _, [], s => .more s
  | a, v :: vs, s =>
    match s.emitAnswer a v with
    | .cont => emitAll (a + 1) vs (s.emit a v)
    | .stop => .stopped (s.emit a v)

/-- The effective address of a Data record, `zext(HEX.xaddr) + p.address`, exact (R51, R150). -/
def State.effAddr (s : State) (address : U16) : Nat := s.hex.xaddr.toNat + address.toNat

/-- `if HEX.startAddr = none then HEX.startAddr <- eff` (R150, R152). -/
def HexUnit.noteStart (h : HexUnit) (eff : Nat) : HexUnit :=
  { h with startAddr := some (h.startAddr.getD eff) }

/-- `HEX.endAddr <- e`, unconditionally (R150, R152). -/
def HexUnit.setEnd (h : HexUnit) (e : Nat) : HexUnit := { h with endAddr := some e }

/-- `DataRecord(p)` (R150). -/
def dataRecord (address : U16) (data : Bytes) (s : State) : PassStep :=
  if s.hex.eofSeen then .failed .dataAfterEof s
  else
    let eff := s.effAddr address
    match emitAll eff data (s.withHex (s.hex.noteStart eff)) with
    | .more t => .more (t.withHex (t.hex.setEnd (eff + data.length))).nextLine
    | other => other

/-- `EofRecord(p)` (R153): the address and data are not checked. -/
def eofRecord (s : State) : PassStep := .more (s.withHex s.hex.setEofSeen).nextLine

/-- The offset an ExtLinearAddr record's two data bytes give (R87, R154). -/
def elaOffset (mode : ElaMode) (d0 d1 : Byte) : U32 :=
  match mode with
  | .standard => (d0.zeroExtend 32 <<< 24) ||| (d1.zeroExtend 32 <<< 16)
  | .legacy => (d0.zeroExtend 32 <<< 16) ||| (d1.zeroExtend 32 <<< 24)

/-- `ElaRecord(p)` (R154): exactly two data bytes; the address field is ignored. -/
def elaRecord (data : Bytes) (s : State) : PassStep :=
  match data with
  | [d0, d1] => .more (s.withHex { s.hex with xaddr := elaOffset s.config.elaMode d0 d1 }).nextLine
  | _ => .failed .badElaLength s

/-- The no-operation record types: nothing but the line is consumed (R155). -/
def noOpRecord (s : State) : PassStep := .more s.nextLine

/-- An unknown record type (R156). -/
def unknownRecord (s : State) : PassStep := .failed .unknownType s

/-- The dispatch by recordType (R86, R146, R147). -/
def recordStep (r : Record) (s : State) : PassStep :=
  match r.recordType.toNat with
  | 0x00 => dataRecord r.address r.data s
  | 0x01 => eofRecord s
  | 0x02 => noOpRecord s
  | 0x03 => noOpRecord s
  | 0x04 => elaRecord r.data s
  | 0x05 => noOpRecord s
  | _ => unknownRecord s

/-! ### A pass -/

/-- One line of a pass (R146). -/
def lineStep (line : Text) (s : State) : PassStep :=
  match hexLineParse line with
  | .error d => .failed d s
  | .ok .skip => .more s.nextLine
  | .ok (.record r) => recordStep r s

/-- `HexFilePass(L)` from the second line of its pseudocode on: line by line until the end, a Stop or an error (R146, R149,
R151). -/
def passLoop : List Text → State → PassStep
  | [], s => .more s
  | l :: ls, s =>
    match lineStep l s with
    | .more t => passLoop ls t
    | other => other

/-- A fresh pass for a consumer: the HEX registers reset (R34, R146). -/
def State.openPass (s : State) (c : Consumer) : State := s.withHex { HexUnit.reset with consumer := c }

/-- The end of a host pass (R148, R149, R151). -/
def closePass : PassStep → State
  | .more s => s.finish (.ok (.window s.hex.startAddr s.hex.endAddr))
  | .stopped s => s.finish (.ok .stopped)
  | .failed d s => s.raise (.hexFormat d)

/-- HEX_FILE_PARSE (R146). -/
def execHexFileParse (src : HexText) (s : State) : Host.Outcome State Fault Refusal :=
  .next (closePass (passLoop src.toLines (s.begin.openPass .host)))

/-- A record as a step of the block by itself: the pass goes on, or the record ends it. A Stop ends a host pass with
`Ok(Stopped)` (R151); a range pass is left, with its flags set, to RANGE_CRC (R212). -/
def PassStep.settle : PassStep → State
  | .more s => s
  | .stopped s =>
    match s.hex.consumer with
    | .host => s.finish (.ok .stopped)
    | .range => s
  | .failed d s => s.raise (.hexFormat d)

/-- Data record, TT 0x00 (R150). -/
def execRecData (address : U16) (data : Bytes) (s : State) : Host.Outcome State Fault Refusal :=
  .next (dataRecord address data s).settle

/-- EndOfFile record, TT 0x01 (R153). -/
def execRecEndOfFile (_address : U16) (_data : Bytes) (s : State) : Host.Outcome State Fault Refusal :=
  .next (eofRecord s).settle

/-- ExtSegmentAddr record, TT 0x02 (R155). -/
def execRecExtSegmentAddr (_address : U16) (_data : Bytes) (s : State) : Host.Outcome State Fault Refusal :=
  .next (noOpRecord s).settle

/-- StartSegmentAddr record, TT 0x03 (R155). -/
def execRecStartSegmentAddr (_address : U16) (_data : Bytes) (s : State) : Host.Outcome State Fault Refusal :=
  .next (noOpRecord s).settle

/-- ExtLinearAddr record, TT 0x04 (R154). -/
def execRecExtLinearAddr (_address : U16) (data : Bytes) (s : State) : Host.Outcome State Fault Refusal :=
  .next (elaRecord data s).settle

/-- StartLinearAddr record, TT 0x05 (R155). -/
def execRecStartLinearAddr (_address : U16) (_data : Bytes) (s : State) : Host.Outcome State Fault Refusal :=
  .next (noOpRecord s).settle

/-- A record of an unknown type, TT 0x06 to 0xFF (R156). -/
def execRecUnknown (_recordType : Byte) (_address : U16) (_data : Bytes) (s : State) : Host.Outcome State Fault Refusal :=
  .next (unknownRecord s).settle

end Sys2Proof.Machine
end

