-- ==== Sys2Proof/Machine/RangeCrc.lean ====
section
/-! DEFINITION. RANGE_CRC (45_range_crc.md R210, R216): a fresh pass whose consumer is the range-CRC unit. -/

namespace Sys2Proof.Machine

open Sys2Proof.Config

/-- RANGE_CRC's registers and pass at its start (R210, R211, R272). -/
def State.openRange (s : State) (start stop : Nat) : State :=
  (s.withRng (RngUnit.load s.config.crcInit start stop)).openPass .range

/-- The end of a pass that raised no error: refused, or padded to the window's end (R210, R213, R215). -/
def State.concludeRange (s : State) : State :=
  if s.rng.refused then s.refuse .rangeNonMonotonic
  else
    let t := s.withRng s.rng.padToEnd
    t.finish (.ok (.word t.rng.crc))

/-- The end of RANGE_CRC (R210, R216). -/
def closeRange : PassStep → State
  | .more s => s.concludeRange
  | .stopped s => s.concludeRange
  | .failed d s => s.raise (.hexFormat d)

/-- RANGE_CRC (R210). -/
def execRangeCrc (src : HexText) (start stop : Nat) (s : State) : Host.Outcome State Fault Refusal :=
  .next (closeRange (passLoop src.toLines (s.begin.openRange start stop)))

end Sys2Proof.Machine
end

