-- ==== Sys2Proof/Machine/Frame.lean ====
section
/-! DEFINITION. The frame codec (42_framing.md): FRAME_ENCODE, FRAME_DECODE, and the four frame symbols of the decoder's
transition table (R124). -/

namespace Sys2Proof.Machine

open Sys2Proof.Config

/-! ### Encoder (R120) -/

/-- The encoder's registers before its first byte: `f <- [START]`. -/
def EncUnit.start : EncUnit := { pos := 0, out := [startByte] }

/-- One turn of the encoder's loop. -/
def EncUnit.put (e : EncUnit) (b : Byte) : EncUnit :=
  { pos := e.pos + 1, out := (if isSpecial b then e.out ++ [escapeByte] else e.out) ++ [b] }

/-- The encoder's registers after the whole payload and the final `f <- f ++ [END]`. -/
def EncUnit.run (p : Bytes) : EncUnit :=
  let e := p.foldl EncUnit.put EncUnit.start
  { e with out := e.out ++ [endByte] }

/-- `FrameEncode(p)` (R120). -/
def frameEncode (p : Bytes) : Bytes := (EncUnit.run p).out

/-- The encoder's scan of `p`; the frame stands in its output register. -/
def State.scanEncode (s : State) (p : Bytes) : State := { s with enc := EncUnit.run p }

/-! ### Decoder (R123, R124) -/

/-- The decoder's registers when it starts on the input `d` (R123). -/
def FrmUnit.load (d : Bytes) : FrmUnit := { FrmUnit.reset with input := d }

/-- The byte at `pos` is consumed (R21). -/
def FrmUnit.advance (f : FrmUnit) : FrmUnit := { f with pos := f.pos + 1 }

/-- A byte copied to the output: the action of every literal row of R124. -/
def FrmUnit.copy (f : FrmUnit) (c : Byte) : FrmUnit :=
  { (f.clearEscaping).advance with out := f.out ++ [c] }

/-- The rows of R124 for START: the leading START opens the frame; inside a frame it is a literal. -/
def FrmUnit.takeStart (f : FrmUnit) : Except FramingDetail FrmUnit :=
  match f.phase with
  | .expectStart => .ok { f.advance with phase := .inFrame }
  | .inFrame => .ok (f.copy startByte)
  | .done => .ok f

/-- The rows of R124 for END: the terminator when not escaped, else a literal. -/
def FrmUnit.takeEnd (f : FrmUnit) : Except FramingDetail FrmUnit :=
  match f.phase with
  | .expectStart => .error .missingStart
  | .inFrame =>
    if f.escaping then .ok (f.copy endByte)
    else .ok { f.advance with phase := .done, rem := f.input.drop (f.pos + 1) }
  | .done => .ok f

/-- The rows of R124 for ESCAPE: a dropped prefix when not escaped, else a literal. -/
def FrmUnit.takeEscape (f : FrmUnit) : Except FramingDetail FrmUnit :=
  match f.phase with
  | .expectStart => .error .missingStart
  | .inFrame => if f.escaping then .ok (f.copy escapeByte) else .ok f.advance.setEscaping
  | .done => .ok f

/-- The rows of R124 for any other byte: always a literal inside a frame. -/
def FrmUnit.takeLiteral (f : FrmUnit) (c : Byte) : Except FramingDetail FrmUnit :=
  match f.phase with
  | .expectStart => .error .missingStart
  | .inFrame => .ok (f.copy c)
  | .done => .ok f

/-- The row of R124 for the byte `c`, by its symbol class (R71). In phase Done no byte is consumed. -/
def FrmUnit.take (f : FrmUnit) (c : Byte) : Except FramingDetail FrmUnit :=
  if c = startByte then f.takeStart
  else if c = endByte then f.takeEnd
  else if c = escapeByte then f.takeEscape
  else f.takeLiteral c

/-- The rows of R124 for an exhausted input, and the return from Done. -/
def FrmUnit.exhausted (f : FrmUnit) : Except FramingDetail FrmUnit :=
  match f.phase with
  | .expectStart => .error .missingStart
  | .inFrame => .error .missingEnd
  | .done => .ok f

/-- The decoder's scan: one row of R124 per byte until the frame is done, an error is raised, or the input runs out. -/
def FrmUnit.scan : Bytes → FrmUnit → Except FramingDetail FrmUnit
  | [], f => f.exhausted
  | c :: cs, f =>
    if f.phase = .done then .ok f
    else
      match f.take c with
      | .ok f' => FrmUnit.scan cs f'
      | .error d => .error d

/-- The whole decode of `d`: in the registers' end, `out` is the payload and `rem` the remainder (R123, R125). -/
def FrmUnit.run (d : Bytes) : Except FramingDetail FrmUnit := FrmUnit.scan d (FrmUnit.load d)

/-- A symbol's row as a step of the block: the registers move, or the error is raised (R124, R236). -/
def State.afterSymbol (s : State) (r : Except FramingDetail FrmUnit) : State :=
  match r with
  | .ok f => s.withFrm f
  | .error d => s.raise (.framing d)

/-! ### Meanings -/

/-- FRAME_ENCODE (R120). -/
def execFrameEncode (payload : Bytes) (s : State) : Host.Outcome State Fault Refusal :=
  let t := s.begin.scanEncode payload
  .next (t.finish (.ok (.frame t.enc.out)))

/-- FRAME_DECODE (R123, R125). -/
def execFrameDecode (input : Bytes) (s : State) : Host.Outcome State Fault Refusal :=
  .next
    (match FrmUnit.run input with
    | .ok f => (s.begin.withFrm f).finish (.ok (.decoded f.out f.rem))
    | .error d => s.begin.raise (.framing d))

/-- FRAME_START: the byte 0x01 of a frame (R71, R124). -/
def execFrameStart (s : State) : Host.Outcome State Fault Refusal := .next (s.afterSymbol s.frm.takeStart)

/-- FRAME_END: the byte 0x04 of a frame (R71, R124). -/
def execFrameEnd (s : State) : Host.Outcome State Fault Refusal := .next (s.afterSymbol s.frm.takeEnd)

/-- FRAME_ESCAPE: the byte 0x10 of a frame (R71, R124). -/
def execFrameEscape (s : State) : Host.Outcome State Fault Refusal := .next (s.afterSymbol s.frm.takeEscape)

/-- FRAME_LITERAL: any other byte of a frame (R71, R124). -/
def execFrameLiteral (b : Byte) (s : State) : Host.Outcome State Fault Refusal := .next (s.afterSymbol (s.frm.takeLiteral b))

end Sys2Proof.Machine
end

