-- ==== Sys2Proof/Machine/Session.lean ====
section
/-! DEFINITION. The bootloader command/response codec (44_session.md): REQUEST_ENCODE, RESPONSE_DECODE, the five session
operations, and the request and response messages of the wire (R74 to R76). -/

namespace Sys2Proof.Machine

open Sys2Proof.Config

/-! ### Requests (R170 to R173) -/

/-- `Message(body) = body ++ le16(CrcCompute(body))` (R171). -/
def message (crcInit : U16) (body : Bytes) : Bytes := body ++ le16 (crcCompute crcInit body)

/-- `RequestEncode(op, fields)` over the CRC and encoder registers (R172): the frame stands in the encoder's output register. -/
def State.scanRequest (s : State) (req : Request) : State :=
  let t := s.scanCrc req.body
  t.scanEncode (req.body ++ le16 t.crc.acc)

/-- The first half of an exchange (R170): `SES.op` is latched, the request is encoded and written. -/
def State.sendRequest (s : State) (req : Request) : State :=
  let t := (s.withSes { s.ses with op := req.opcode }).scanRequest req
  t.txWrite t.enc.out

/-! ### Responses (R177 to R179) -/

/-- An unrecognized response: no opcode, or one that names no operation (R178, R233). -/
def State.unrecognized (s : State) (body : Bytes) : State := s.raise (.unrecognizedOp body.head?)

/-- A ReadBootInfo response with `rest` after its opcode: exactly a u16 version (R76, R179). -/
def State.takeBootInfo (s : State) (rest : Bytes) : State :=
  match rest with
  | [lo, hi] => s.finish (.ok (.response (.readBootInfo (ofLe16 lo hi))))
  | _ => s.raise (.framing .badLength)

/-- A ReadCrc response with `rest` after its opcode: exactly a u16 crc (R76, R179). -/
def State.takeCrc (s : State) (rest : Bytes) : State :=
  match rest with
  | [lo, hi] => s.finish (.ok (.response (.readCrc (ofLe16 lo hi))))
  | _ => s.raise (.framing .badLength)

/-- A response that is its opcode alone (R76, R179). -/
def State.takeBare (s : State) (r : Response) (rest : Bytes) : State :=
  match rest with
  | [] => s.finish (.ok (.response r))
  | _ => s.raise (.framing .badLength)

/-- The dispatch on the echoed opcode (R177, R179); the request's opcode is not compared (R180). -/
def State.respond (s : State) (body : Bytes) : State :=
  match body with
  | [] => s.unrecognized []
  | op :: rest =>
    match op.toNat with
    | 0x01 => s.takeBootInfo rest
    | 0x02 => s.takeBare .eraseFlash rest
    | 0x03 => s.takeBare .programFlash rest
    | 0x04 => s.takeCrc rest
    | 0x05 => s.takeBare .jumpToApp rest
    | _ => s.unrecognized (op :: rest)

/-- The body of a message: all but its last two bytes (R88, R177). -/
def messageBody (p : Bytes) : Bytes := p.take (p.length - 2)

/-- The received trailer of a message, low byte first (R177). -/
def messageTrailer (p : Bytes) : U16 := ofLe16 (p.getD (p.length - 2) 0#8) (p.getD (p.length - 1) 0#8)

/-- The CRC check of an unframed payload `p`, then the dispatch on its body (R177, R178). -/
def State.checkMessage (s : State) (p : Bytes) : State :=
  if p.length < 2 then s.raise (.crcMismatch .short)
  else
    let t := s.scanCrc (messageBody p)
    if t.crc.acc ≠ messageTrailer p then t.raise (.crcMismatch .mismatch) else t.respond (messageBody p)

/-- `ResponseDecode(r, timedOut)` (R177); the frame's remainder is discarded (R176). -/
def State.decodeResponse (s : State) (r : Bytes) (timedOut : Bool) : State :=
  if timedOut then s.raise .noResponse
  else
    match FrmUnit.run r with
    | .error d => s.raise (.framing d)
    | .ok f => (s.withFrm f).checkMessage f.out

/-- The exchange of the four operations that expect a response (R170, R174): one write, one read, the decode of what it
latched. -/
def State.exchange (s : State) (req : Request) : State :=
  let t := (s.begin.sendRequest req).txRead
  t.decodeResponse t.ses.rx t.ses.timedOut

/-! ### Operations -/

/-- REQUEST_ENCODE (R172): pure, nothing is written to the transport. -/
def execRequestEncode (req : Request) (s : State) : Host.Outcome State Fault Refusal :=
  let t := s.begin.scanRequest req
  .next (t.finish (.ok (.frame t.enc.out)))

/-- RESPONSE_DECODE (R177). -/
def execResponseDecode (r : Bytes) (timedOut : Bool) (s : State) : Host.Outcome State Fault Refusal :=
  .next (s.begin.decodeResponse r timedOut)

/-- READ_BOOT_INFO (R181). -/
def execReadBootInfo (s : State) : Host.Outcome State Fault Refusal := .next (s.exchange .readBootInfo)

/-- ERASE_FLASH (R182). -/
def execEraseFlash (s : State) : Host.Outcome State Fault Refusal := .next (s.exchange .eraseFlash)

/-- PROGRAM_FLASH (R183): any byte sequence is sent; NoResponseError is the device's failure signal (R184, R249). -/
def execProgramFlash (recordBytes : Bytes) (s : State) : Host.Outcome State Fault Refusal :=
  .next (s.exchange (.programFlash recordBytes))

/-- READ_CRC (R185). -/
def execReadCrc (address length : U32) (s : State) : Host.Outcome State Fault Refusal :=
  .next (s.exchange (.readCrc address length))

/-- JUMP_TO_APP (R187): the write only, and no read. -/
def execJumpToApp (s : State) : Host.Outcome State Fault Refusal :=
  .next ((s.begin.sendRequest .jumpToApp).finish (.ok .nothing))

/-! ### Request messages on the wire (R74, R75; log 19) -/

/-- A ReadBootInfo request (R181). -/
def execReqReadBootInfo (s : State) : Host.Outcome State Fault Refusal := .next (s.sendRequest .readBootInfo)

/-- An EraseFlash request (R182). -/
def execReqEraseFlash (s : State) : Host.Outcome State Fault Refusal := .next (s.sendRequest .eraseFlash)

/-- A ProgramFlash request (R183). -/
def execReqProgramFlash (recordBytes : Bytes) (s : State) : Host.Outcome State Fault Refusal :=
  .next (s.sendRequest (.programFlash recordBytes))

/-- A ReadCrc request (R185). -/
def execReqReadCrc (address length : U32) (s : State) : Host.Outcome State Fault Refusal :=
  .next (s.sendRequest (.readCrc address length))

/-- A JumpToApp request (R187). -/
def execReqJumpToApp (s : State) : Host.Outcome State Fault Refusal := .next (s.sendRequest .jumpToApp)

/-! ### Response messages on the wire, after the CRC check (R76, R179) -/

/-- A ReadBootInfo response. -/
def execRspReadBootInfo (rest : Bytes) (s : State) : Host.Outcome State Fault Refusal := .next (s.takeBootInfo rest)

/-- An EraseFlash response. -/
def execRspEraseFlash (rest : Bytes) (s : State) : Host.Outcome State Fault Refusal := .next (s.takeBare .eraseFlash rest)

/-- A ProgramFlash response. -/
def execRspProgramFlash (rest : Bytes) (s : State) : Host.Outcome State Fault Refusal := .next (s.takeBare .programFlash rest)

/-- A ReadCrc response. -/
def execRspReadCrc (rest : Bytes) (s : State) : Host.Outcome State Fault Refusal := .next (s.takeCrc rest)

/-- A JumpToApp response: decoded by RESPONSE_DECODE, never read by an exchange (R179, R187). -/
def execRspJumpToApp (rest : Bytes) (s : State) : Host.Outcome State Fault Refusal := .next (s.takeBare .jumpToApp rest)

/-- A response with no opcode or an unknown one (R77, R178, R233). -/
def execRspUnrecognized (body : Bytes) (s : State) : Host.Outcome State Fault Refusal := .next (s.unrecognized body)

end Sys2Proof.Machine
end

