-- ==== Sys2Proof/Machine/Dispatch.lean ====
section
/-! DEFINITION. The dispatch of an instruction to its meaning, one arm per constructor of `Instr`. -/

namespace Sys2Proof.Machine

def exec (i : Instr) (s : State) : Host.Outcome State Fault Refusal :=
  match i with
  -- the operations of the operation port (R97)
  | .crcStep b st => Sys2Proof.Machine.execCrcStep b st s
  | .crcCompute d => Sys2Proof.Machine.execCrcCompute d s
  | .frameEncode payload => Sys2Proof.Machine.execFrameEncode payload s
  | .frameDecode input => Sys2Proof.Machine.execFrameDecode input s
  | .hexLineParse line => Sys2Proof.Machine.execHexLineParse line s
  | .hexFileParse src => Sys2Proof.Machine.execHexFileParse src s
  | .requestEncode req => Sys2Proof.Machine.execRequestEncode req s
  | .responseDecode r timedOut => Sys2Proof.Machine.execResponseDecode r timedOut s
  | .readBootInfo => Sys2Proof.Machine.execReadBootInfo s
  | .eraseFlash => Sys2Proof.Machine.execEraseFlash s
  | .programFlash recordBytes => Sys2Proof.Machine.execProgramFlash recordBytes s
  | .readCrc address length => Sys2Proof.Machine.execReadCrc address length s
  | .jumpToApp => Sys2Proof.Machine.execJumpToApp s
  | .rangeCrc src start stop => Sys2Proof.Machine.execRangeCrc src start stop s
  | .opselUnknown code => Sys2Proof.Machine.execOpselUnknown code s
  -- request messages (R74, R75)
  | .reqReadBootInfo => Sys2Proof.Machine.execReqReadBootInfo s
  | .reqEraseFlash => Sys2Proof.Machine.execReqEraseFlash s
  | .reqProgramFlash recordBytes => Sys2Proof.Machine.execReqProgramFlash recordBytes s
  | .reqReadCrc address length => Sys2Proof.Machine.execReqReadCrc address length s
  | .reqJumpToApp => Sys2Proof.Machine.execReqJumpToApp s
  -- response messages (R76, R77)
  | .rspReadBootInfo rest => Sys2Proof.Machine.execRspReadBootInfo rest s
  | .rspEraseFlash rest => Sys2Proof.Machine.execRspEraseFlash rest s
  | .rspProgramFlash rest => Sys2Proof.Machine.execRspProgramFlash rest s
  | .rspReadCrc rest => Sys2Proof.Machine.execRspReadCrc rest s
  | .rspJumpToApp rest => Sys2Proof.Machine.execRspJumpToApp rest s
  | .rspUnrecognized body => Sys2Proof.Machine.execRspUnrecognized body s
  -- Intel-HEX records (R86)
  | .recData address data => Sys2Proof.Machine.execRecData address data s
  | .recEndOfFile address data => Sys2Proof.Machine.execRecEndOfFile address data s
  | .recExtSegmentAddr address data => Sys2Proof.Machine.execRecExtSegmentAddr address data s
  | .recStartSegmentAddr address data => Sys2Proof.Machine.execRecStartSegmentAddr address data s
  | .recExtLinearAddr address data => Sys2Proof.Machine.execRecExtLinearAddr address data s
  | .recStartLinearAddr address data => Sys2Proof.Machine.execRecStartLinearAddr address data s
  | .recUnknown recordType address data => Sys2Proof.Machine.execRecUnknown recordType address data s
  -- frame symbols (R71)
  | .frameStart => Sys2Proof.Machine.execFrameStart s
  | .frameEnd => Sys2Proof.Machine.execFrameEnd s
  | .frameEscape => Sys2Proof.Machine.execFrameEscape s
  | .frameLiteral b => Sys2Proof.Machine.execFrameLiteral b s

end Sys2Proof.Machine
end

