-- ==== Sys2Proof/Machine/Step.lean ====
section
/-! DEFINITION. One step of the block: the operation presented at the operation port runs to completion (R8, R9, R29; log 4). -/

namespace Sys2Proof.Machine

/-- The instruction the block serves next: the decode of the presentation at the head of the operation port, if the host has
presented one (R29, R97). -/
def State.fetch (s : State) : Option (Except DecodeError Instr) := s.port.head?.map decodePort

/-- One step. With nothing presented the block is idle and stays so (R248, R271; log 3). -/
def step (s : State) : Host.Outcome State Fault Refusal :=
  match s.fetch with
  | none => .next s
  | some (.ok i) => exec i s
  | some (.error _) => .fault .mistypedOperands

/-- The state with a table word presented at the operation port, in place of what stood at its head, operands all zeros
(log 1, log 2, log 3). -/
def State.withFetchWord (s : State) (nbits w : Nat) : State :=
  { s with port := wordPresentation (w % 2 ^ nbits) :: s.port.tail }

end Sys2Proof.Machine
end

