-- ==== Sys2Proof/Safety.lean ====
section
/-! DEFINITION. The terms claims use: what a state between operations is, what the block may show, and the spec's own
descriptions of frames, messages and images that the machine's results are compared with. -/

namespace Sys2Proof.Machine

open Sys2Proof.Config

/-! ### States between operations -/

/-- Every unit register is at its reset value: "nothing survives from one operation to the next" (R34). -/
def State.AtRest (s : State) : Prop := s.clearUnits = s

/-- An error value of the tables of R231 to R235: an unrecognized opcode is one that names no operation (R233). -/
def Err.Lawful : Err → Prop
  | .unrecognizedOp (some op) => opcodeKnown op = false
  | _ => True

/-- An outcome the block may return under a configuration: window fields both absent or both present (R148), records whose byte
count is their data's length (R84), refusals of backward bytes only where RANGE_BACKWARD = refuse (R239). -/
def Result.Lawful (c : Configuration) : Result → Prop
  | .ok (.window a b) => a.isSome = b.isSome
  | .ok (.record r) => r.data.length = r.byteCount.toNat
  | .ok _ => True
  | .err e => e.Lawful
  | .refused .unknownOperation => True
  | .refused .rangeNonMonotonic => c.rangeBackward = .refuse

/-- An event the block may show under a configuration: image addresses below `2^32 + 2^8` (R51), written frames that are framed
CRC-valid requests (R73, R172), reads of READ_MAX and TIMEOUT_MS answered by at most READ_MAX bytes (R31, R174). -/
def Event.Lawful (c : Configuration) : Event → Prop
  | .outcome r => r.Lawful c
  | .emit _ a _ _ => a < effAddrBound
  | .txWrite f => ∃ req : Request, f = frameEncode (message c.crcInit req.body)
  | .txRead n t r _ => n = c.readMax ∧ t = c.timeoutMs ∧ r.length ≤ n

/-- What every step keeps: a legal configuration (R22), unit registers at rest (R34), lawful events. -/
structure State.Inv (s : State) : Prop where
  legal : s.config.legal = true
  atRest : s.AtRest
  lawful : ∀ e ∈ s.trace, e.Lawful s.config

/-- The event is no outcome. -/
def Event.isPortEvent : Event → Bool
  | .outcome _ => false
  | _ => true

/-- Two states that differ at most in what earlier operations have left: same configuration, same presentations, same answers
to come (R272). -/
structure State.SamePorts (s t : State) : Prop where
  config : s.config = t.config
  port : s.port = t.port
  answers : s.answers = t.answers
  transport : s.transport = t.transport
  draws : s.draws = t.draws

/-! ### CRC -/

/-- The fold of the bitwise byte step (R102, R104). -/
def bitCrc (init : U16) (d : Bytes) : U16 := d.foldl (fun acc b => bitStep b acc) init

/-! ### Frames -/

/-- A payload with one ESCAPE before each START, END and ESCAPE (R70, R120). -/
def stuffed (p : Bytes) : Bytes := p.flatMap fun b => if isSpecial b then [escapeByte, b] else [b]

/-- A byte of a frame's interior as it stands on the wire: with an ESCAPE before it, or bare (R70 `ESCAPE? byte`). -/
structure FrameByte where
  escaped : Bool
  value : Byte
deriving DecidableEq, Repr

/-- A bare END ends the frame and a bare ESCAPE is a prefix, so neither stands bare for itself (R71). -/
def FrameByte.ok (x : FrameByte) : Bool := x.escaped || (x.value != endByte && x.value != escapeByte)

/-- The wire bytes of a frame's interior. -/
def renderFrame (xs : List FrameByte) : Bytes :=
  xs.flatMap fun x => if x.escaped then [escapeByte, x.value] else [x.value]

/-! ### Messages -/

/-- A u16 as two wire bytes, by arithmetic (R54). -/
def le16Nat (n : Nat) : Bytes := [BitVec.ofNat 8 n, BitVec.ofNat 8 (n / 256)]

/-- A u32 as four wire bytes, by arithmetic (R54). -/
def le32Nat (n : Nat) : Bytes :=
  [BitVec.ofNat 8 n, BitVec.ofNat 8 (n / 2 ^ 8), BitVec.ofNat 8 (n / 2 ^ 16), BitVec.ofNat 8 (n / 2 ^ 24)]

/-- The frame on the wire of a message with this body: stuffed between START and END, its CRC low byte first (R70, R73). -/
def wireFrame (crcInit : U16) (body : Bytes) : Bytes :=
  startByte :: stuffed (body ++ le16Nat (bitCrc crcInit body).toNat) ++ [endByte]

/-- The request bodies of R75, byte by byte. -/
def requestLayout : Request → Bytes
  | .readBootInfo => [0x01#8]
  | .eraseFlash => [0x02#8]
  | .programFlash recordBytes => 0x03#8 :: recordBytes
  | .readCrc address length => 0x04#8 :: (le32Nat address.toNat ++ le32Nat length.toNat)
  | .jumpToApp => [0x05#8]

/-- The response bodies of R76, byte by byte. -/
def responseLayout : Response → Bytes
  | .readBootInfo version => 0x01#8 :: le16Nat version.toNat
  | .eraseFlash => [0x02#8]
  | .programFlash => [0x03#8]
  | .readCrc crc => 0x04#8 :: le16Nat crc.toNat
  | .jumpToApp => [0x05#8]

/-- The request of each session operation (R170, R181 to R187). -/
def sessionRequest : Instr → Option Request
  | .readBootInfo => some .readBootInfo
  | .eraseFlash => some .eraseFlash
  | .programFlash recordBytes => some (.programFlash recordBytes)
  | .readCrc address length => some (.readCrc address length)
  | .jumpToApp => some .jumpToApp
  | _ => none

/-- The request each request message carries (R74, R75). -/
def wireRequest : Instr → Option Request
  | .reqReadBootInfo => some .readBootInfo
  | .reqEraseFlash => some .eraseFlash
  | .reqProgramFlash recordBytes => some (.programFlash recordBytes)
  | .reqReadCrc address length => some (.readCrc address length)
  | .reqJumpToApp => some .jumpToApp
  | _ => none

/-! ### Emissions and images -/

/-- The events of emitting `data` from address `a` on to a consumer that answers Continue each time (R61, R150). -/
def emitted (c : Consumer) : Nat → Bytes → List Event
  | _, [] => []
  | a, v :: vs => .emit c a v .cont :: emitted c (a + 1) vs

/-- The upper-address offset an ExtLinearAddr record gives, by arithmetic (R154). -/
def elaBase (mode : ElaMode) (d0 d1 : Byte) : Nat :=
  match mode with
  | .standard => d0.toNat * 2 ^ 24 + d1.toNat * 2 ^ 16
  | .legacy => d0.toNat * 2 ^ 16 + d1.toNat * 2 ^ 24

/-- The lines of a file: one ExtLinearAddr record, Data records, one EndOfFile record (R80, R86). -/
def dataFile (d0 d1 : Byte) (recs : List (U16 × Bytes)) : List Text :=
  encodeRecord 0x04#8 0#16 [d0, d1] :: recs.map (fun r => encodeRecord 0x00#8 r.1 r.2)
    ++ [encodeRecord 0x01#8 0#16 []]

/-- The emissions of Data records under an offset (R150). -/
def dataEvents (c : Consumer) (base : Nat) (recs : List (U16 × Bytes)) : List Event :=
  recs.flatMap fun r => emitted c (base + r.1.toNat) r.2

/-- The emissions inside the window `[start, stop)` (R214's `E`). -/
def inWindow (start stop : Nat) (ws : List (Nat × Byte)) : List (Nat × Byte) :=
  ws.filter fun w => decide (start ≤ w.1) && decide (w.1 < stop)

/-- The addresses strictly increase (R214). -/
def Increasing (ws : List (Nat × Byte)) : Prop := ws.Pairwise fun x y => x.1 < y.1

/-- R214's `s0`: the address of the first in-window emission, or `start` if there is none. -/
def firstAddr (start : Nat) (ws : List (Nat × Byte)) : Nat := (ws.head?.map Prod.fst).getD start

/-- R214's `[Img(k) for k in s0 .. end-1]`, with `Img(k)` the last emission at `k`, or 0xFF (R53). -/
def windowBytes (start stop : Nat) (ws : List (Nat × Byte)) : Bytes :=
  (List.range' (firstAddr start ws) (stop - firstAddr start ws)).map (imageOf ws).read

end Sys2Proof.Machine
end

