-- ==== Sys2Proof/Certificates/Slice0/Obligations.lean ====
section
/-! DEFINITION. The statements about the block, from the numbered rules of spec/. Each docstring names the rule it formalises. -/

open Sys2Proof Sys2Proof.Machine Sys2Proof.Config

/-! ### CRC engine (41_crc.md) -/

/-- R100: `T[i]` is the XOR of `0x1021 << k` over the set bits `k` of `i`, and the table in full. -/
def Obligations.CrcTableIsPolynomialMultiples : Prop :=
  (∀ i : BitVec 4, crcEntry i =
    (List.range 4).foldl (fun acc k => if i.getLsbD k then acc ^^^ (0x1021#16 <<< k) else acc) 0#16) ∧
  (List.range 16).map (fun n => crcEntry (BitVec.ofNat 4 n)) =
    [0x0000#16, 0x1021#16, 0x2042#16, 0x3063#16, 0x4084#16, 0x50A5#16, 0x60C6#16, 0x70E7#16,
     0x8108#16, 0x9129#16, 0xA14A#16, 0xB16B#16, 0xC18C#16, 0xD1AD#16, 0xE1CE#16, 0xF1EF#16]

/-- R103: OPSEL 0x01 with its operands is CRC_STEP, which answers the two nibble steps, high nibble first, for every byte and state; it writes no register and raises
no error; its corner cases; no bit of either operand is ignored. -/
def Obligations.CrcStepResult : Prop :=
  (∀ (b : Byte) (st : U16), decode (.port ⟨0x01#8, .step b st⟩) = .ok (.crcStep b st)) ∧
  (∀ (b : Byte) (st : U16) (s : State), exec (.crcStep b st) s = .next
    { s with
      port := s.port.tail
      trace := s.trace ++ [.outcome (.ok (.word
        (nibStep (nibStep st (BitVec.ofNat 4 (b.toNat / 16))) (BitVec.ofNat 4 (b.toNat % 16)))))] }) ∧
  crcStep 0x00#8 0x0000#16 = 0x0000#16 ∧
  crcStep 0x01#8 0x0000#16 = 0x1021#16 ∧
  nibStep 0xFFFF#16 0x3#4 = 0x3E7C#16 ∧ crcStep 0x31#8 0xFFFF#16 = 0xC782#16 ∧
  (∀ b : Byte, crcStep b 0#16 = nibStep (crcEntry (b.extractLsb' 4 4)) (b.extractLsb' 0 4)) ∧
  (∀ (b b' : Byte) (st : U16), crcStep b st = crcStep b' st → b = b') ∧
  (∀ (b : Byte) (st st' : U16), crcStep b st = crcStep b st' → st = st')

/-- R102, which the spec marks as derived: the byte step equals the bitwise MSB-first definition for every state and byte, so CRC_STEP answers it. -/
def Obligations.CrcStepIsBitwise : Prop :=
  ∀ (b : Byte) (st : U16) (s : State),
    crcStep b st = bitStep b st ∧
    exec (.crcStep b st) s = .next (s.deliver (.ok (.word (bitStep b st))))

/-- R104: OPSEL 0x02 is CRC_COMPUTE, which answers the fold of the (bitwise) byte step from CRC_INIT; the empty sequence gives CRC_INIT; its
registers are discarded. -/
def Obligations.CrcComputeFoldsBytes : Prop :=
  (∀ d : Bytes, decode (.port ⟨0x02#8, .bytes d⟩) = .ok (.crcCompute d)) ∧
  (∀ (d : Bytes) (s : State),
    exec (.crcCompute d) s = .next (s.finish (.ok (.word (bitCrc s.config.crcInit d))))) ∧
  (∀ init : U16, bitCrc init [] = init) ∧
  bitCrc 0xFFFF#16 [0x00#8] = 0xE1F0#16 ∧
  bitCrc 0xFFFF#16 [0x31#8, 0x32#8, 0x33#8, 0x34#8, 0x35#8, 0x36#8, 0x37#8, 0x38#8, 0x39#8] = 0x29B1#16

/-- R106, which the spec marks as derived: the CRC of `a ++ c` is the fold of the byte step over `c` from the CRC of `a`. -/
def Obligations.CrcIsIncremental : Prop :=
  ∀ (a c : Bytes) (s : State),
    exec (.crcCompute (a ++ c)) s = .next (s.finish (.ok (.word
      (c.foldl (fun acc b => crcStep b acc) (crcCompute s.config.crcInit a)))))

/-- R107, values the spec marks as general knowledge or derived (log 24): the reference values at both initial values, as outcomes of CRC_COMPUTE. -/
def Obligations.CrcReferenceValues : Prop :=
  ∀ s : State,
    (s.config.crcInit = 0xFFFF#16 →
      exec (.crcCompute []) s = .next (s.finish (.ok (.word 0xFFFF#16))) ∧
      exec (.crcCompute [0x31#8, 0x32#8, 0x33#8, 0x34#8, 0x35#8, 0x36#8, 0x37#8, 0x38#8, 0x39#8]) s =
        .next (s.finish (.ok (.word 0x29B1#16)))) ∧
    (s.config.crcInit = 0x0000#16 →
      exec (.crcCompute []) s = .next (s.finish (.ok (.word 0x0000#16))) ∧
      exec (.crcCompute [0x31#8, 0x32#8, 0x33#8, 0x34#8, 0x35#8, 0x36#8, 0x37#8, 0x38#8, 0x39#8]) s =
        .next (s.finish (.ok (.word 0x31C3#16))))

/-! ### Frame codec (42_framing.md) -/

/-- R120: OPSEL 0x03 is FRAME_ENCODE, which answers START, the payload with an ESCAPE before each special byte, END, for every payload. -/
def Obligations.FrameEncodeResult : Prop :=
  (∀ p : Bytes, decode (.port ⟨0x03#8, .bytes p⟩) = .ok (.frameEncode p)) ∧
  (∀ (p : Bytes) (s : State),
    exec (.frameEncode p) s = .next (s.finish (.ok (.frame (startByte :: stuffed p ++ [endByte]))))) ∧
  startByte :: stuffed [] ++ [endByte] = [0x01#8, 0x04#8] ∧
  (∀ p : Bytes, (∀ b ∈ p, isSpecial b = true) → (startByte :: stuffed p ++ [endByte]).length = 2 * p.length + 2) ∧
  (∀ b : Byte, isSpecial b = true ↔ b = 0x01#8 ∨ b = 0x04#8 ∨ b = 0x10#8) ∧
  startByte :: stuffed [0x01#8, 0x04#8, 0x10#8, 0x00#8] ++ [endByte] =
    [0x01#8, 0x10#8, 0x01#8, 0x10#8, 0x04#8, 0x10#8, 0x10#8, 0x00#8, 0x04#8]

/-- R72: the length of a frame. -/
def Obligations.FrameLength : Prop :=
  ∀ (p : Bytes) (s : State), ∃ f : Bytes,
    exec (.frameEncode p) s = .next (s.finish (.ok (.frame f))) ∧
    f.length = p.length + 2 + p.countP (fun b => b == 0x01#8 || b == 0x04#8 || b == 0x10#8)

/-- R122, which the spec marks as derived: decoding an encoded payload followed by any bytes gives the payload and those bytes. -/
def Obligations.FrameRoundTrip : Prop :=
  ∀ (p t : Bytes) (s : State),
    exec (.frameDecode (frameEncode p ++ t)) s = .next (s.finish (.ok (.decoded p t)))

/-- R124, R125: a frame of the grammar `START (ESCAPE? byte)* END`, whichever bytes are escaped, decodes to its bytes without
the escapes, and what follows END is the remainder. -/
def Obligations.FrameDecodeAcceptsGrammar : Prop :=
  ∀ (xs : List FrameByte) (t : Bytes) (s : State), (∀ x ∈ xs, x.ok = true) →
    exec (.frameDecode (startByte :: renderFrame xs ++ endByte :: t)) s =
      .next (s.finish (.ok (.decoded (xs.map FrameByte.value) t)))

/-- R123, R124: an input that does not begin with START raises MissingStart; one that runs out inside the frame, with an escape
pending or not, raises MissingEnd. -/
def Obligations.FrameDecodeErrors : Prop :=
  (∀ (d : Bytes) (s : State), d.head? ≠ some startByte →
    exec (.frameDecode d) s = .next (s.raise (.framing .missingStart))) ∧
  (∀ (xs : List FrameByte) (s : State), (∀ x ∈ xs, x.ok = true) →
    exec (.frameDecode (startByte :: renderFrame xs)) s = .next (s.raise (.framing .missingEnd)) ∧
    exec (.frameDecode (startByte :: renderFrame xs ++ [escapeByte])) s = .next (s.raise (.framing .missingEnd)))

/-- R70, R123, R124, R125: what FRAME_DECODE answers, for every input and every state: MissingStart where START is not first;
else the input is START and an interior, and the answer is MissingEnd where it runs out (an escape pending or not), and where an
END follows the interior, the interior's bytes without their escapes and what stands after END as the remainder. -/
def Obligations.FrameDecodeAnswersEveryInput : Prop :=
  ∀ (d : Bytes) (s : State),
    if d.head? ≠ some startByte then exec (.frameDecode d) s = .next (s.raise (.framing .missingStart))
    else ∃ xs : List FrameByte, (∀ x ∈ xs, x.ok = true) ∧
      ((d = startByte :: renderFrame xs ∨ d = startByte :: renderFrame xs ++ [escapeByte]) ∧
          exec (.frameDecode d) s = .next (s.raise (.framing .missingEnd)) ∨
        ∃ t : Bytes, d = startByte :: renderFrame xs ++ endByte :: t ∧
          exec (.frameDecode d) s = .next (s.finish (.ok (.decoded (xs.map FrameByte.value) t))))

/-- R126, which the spec marks as derived: the decoder's corner cases. -/
def Obligations.FrameDecodeCornerCases : Prop :=
  ∀ s : State,
    exec (.frameDecode [0x01#8, 0x04#8]) s = .next (s.finish (.ok (.decoded [] []))) ∧
    exec (.frameDecode [0x01#8]) s = .next (s.raise (.framing .missingEnd)) ∧
    exec (.frameDecode [0x01#8, 0x10#8]) s = .next (s.raise (.framing .missingEnd)) ∧
    exec (.frameDecode [0x01#8, 0x10#8, 0x04#8]) s = .next (s.raise (.framing .missingEnd)) ∧
    exec (.frameDecode [0x01#8, 0x10#8, 0x04#8, 0x04#8]) s = .next (s.finish (.ok (.decoded [0x04#8] []))) ∧
    exec (.frameDecode [0x01#8, 0x01#8, 0x04#8]) s = .next (s.finish (.ok (.decoded [0x01#8] []))) ∧
    exec (.frameDecode [0x01#8, 0x10#8, 0x10#8, 0x04#8]) s = .next (s.finish (.ok (.decoded [0x10#8] []))) ∧
    exec (.frameDecode [0x00#8, 0x01#8, 0x04#8]) s = .next (s.raise (.framing .missingStart)) ∧
    exec (.frameDecode []) s = .next (s.raise (.framing .missingStart)) ∧
    exec (.frameDecode [0x04#8]) s = .next (s.raise (.framing .missingStart))

/-- R124: the rows of the transition table as meanings of the four symbols; every register but the named ones, and all else, is
unchanged. R124 has its ExpectStart rows for escaping = false only and lets Done take no byte: that the flag is not read in
ExpectStart, and that a symbol by itself in Done changes nothing, are the model's choice (log 16). -/
def Obligations.FrameSymbolTransitions : Prop :=
  ∀ (s : State) (b : Byte), isSpecial b = false →
    (s.frm.phase = .expectStart →
      exec .frameStart s = .next { s with frm := { s.frm with phase := .inFrame, pos := s.frm.pos + 1 } } ∧
      exec .frameEnd s = .next (s.raise (.framing .missingStart)) ∧
      exec .frameEscape s = .next (s.raise (.framing .missingStart)) ∧
      exec (.frameLiteral b) s = .next (s.raise (.framing .missingStart))) ∧
    (s.frm.phase = .inFrame → s.frm.escaping = false →
      exec .frameEscape s = .next { s with frm := { s.frm with escaping := true, pos := s.frm.pos + 1 } } ∧
      exec .frameEnd s = .next
        { s with frm := { s.frm with phase := .done, pos := s.frm.pos + 1, rem := s.frm.input.drop (s.frm.pos + 1) } } ∧
      exec .frameStart s = .next
        { s with frm := { s.frm with out := s.frm.out ++ [0x01#8], pos := s.frm.pos + 1 } } ∧
      exec (.frameLiteral b) s = .next
        { s with frm := { s.frm with out := s.frm.out ++ [b], pos := s.frm.pos + 1 } }) ∧
    (s.frm.phase = .inFrame → s.frm.escaping = true →
      exec .frameEscape s = .next
        { s with frm := { s.frm with out := s.frm.out ++ [0x10#8], pos := s.frm.pos + 1, escaping := false } } ∧
      exec .frameEnd s = .next
        { s with frm := { s.frm with out := s.frm.out ++ [0x04#8], pos := s.frm.pos + 1, escaping := false } } ∧
      exec .frameStart s = .next
        { s with frm := { s.frm with out := s.frm.out ++ [0x01#8], pos := s.frm.pos + 1, escaping := false } } ∧
      exec (.frameLiteral b) s = .next
        { s with frm := { s.frm with out := s.frm.out ++ [b], pos := s.frm.pos + 1, escaping := false } }) ∧
    (s.frm.phase = .done →
      exec .frameStart s = .next s ∧ exec .frameEnd s = .next s ∧ exec .frameEscape s = .next s ∧
      exec (.frameLiteral b) s = .next s)

/-- R21, R124: FRAME_DECODE's scan of a byte is the meaning of that byte's symbol: it moves the decoder's registers as `exec` of
the symbol does, or ends with the error that `exec` raises. -/
def Obligations.FrameScanStepsBySymbol : Prop :=
  ∀ (s : State) (c : Byte) (cs : Bytes), s.frm.phase ≠ .done →
    (∃ f : FrmUnit, exec (decodeSymbol c) s = .next { s with frm := f } ∧
      FrmUnit.scan (c :: cs) s.frm = FrmUnit.scan cs f) ∨
    (∃ d : FramingDetail, exec (decodeSymbol c) s = .next (s.raise (.framing d)) ∧
      FrmUnit.scan (c :: cs) s.frm = .error d)

/-! ### Hex lines (43_hex.md §1) -/

/-- R140, R143, R144: a line `:` followed by the digit pairs of `n + 5` bytes that sum to 0 mod 256, with white space around
it, parses to the record of those bytes, whatever the case of the digits and the record type. -/
def Obligations.HexLineRecordFields : Prop :=
  ∀ (pre post : Text) (ds : List (Byte × Byte)) (s : State),
    (∀ c ∈ pre, isBlank c = true) → (∀ c ∈ post, isBlank c = true) →
    (∀ d ∈ ds, isHexDigit d.1 = true ∧ isHexDigit d.2 = true) →
    let r : Bytes := ds.map fun d => BitVec.ofNat 8 (16 * digitValue d.1 + digitValue d.2)
    r.length = (r.getD 0 0#8).toNat + 5 →
    let line : Text := pre ++ 0x3A#8 :: (ds.flatMap fun d => [d.1, d.2]) ++ post
    ((r.map BitVec.toNat).sum % 256 = 0 → ∃ rec : Record,
      exec (.hexLineParse line) s = .next (s.deliver (.ok (.record rec))) ∧
      rec.byteCount = r.getD 0 0#8 ∧
      rec.address.toNat = (r.getD 1 0#8).toNat * 256 + (r.getD 2 0#8).toNat ∧
      rec.recordType = r.getD 3 0#8 ∧
      rec.data = (r.drop 4).take (r.getD 0 0#8).toNat ∧
      rec.checksum = r.getD (4 + (r.getD 0 0#8).toNat) 0#8) ∧
    ((r.map BitVec.toNat).sum % 256 ≠ 0 → exec (.hexLineParse line) s = .next (s.raise (.hexFormat .checksum)))

/-- R141: a line of white space only, and a line whose first other character is `#`, are skipped, and nothing else about them is
checked. -/
def Obligations.HexLineSkips : Prop :=
  ∀ (pre rest : Text) (s : State), (∀ c ∈ pre, isBlank c = true) →
    exec (.hexLineParse pre) s = .next (s.deliver (.ok .skip)) ∧
    exec (.hexLineParse (pre ++ 0x23#8 :: rest)) s = .next (s.deliver (.ok .skip))

/-- R142: the four checks of a stripped line, in their order; each applies where the earlier ones pass. The line is `t` with
white space around it; `t` neither begins nor ends with white space and does not begin with `#`. -/
def Obligations.HexLineChecksInOrder : Prop :=
  ∀ (pre t post : Text) (s : State),
    (∀ c ∈ pre, isBlank c = true) → (∀ c ∈ post, isBlank c = true) →
    t ≠ [] → (∀ c, t.head? = some c → isBlank c = false ∧ c ≠ 0x23#8) → (∀ c, t.getLast? = some c → isBlank c = false) →
    let n := 16 * digitValue (t.getD 1 0#8) + digitValue (t.getD 2 0#8)
    let x := exec (.hexLineParse (pre ++ t ++ post)) s
    if t.length < 11 then x = .next (s.raise (.hexFormat .tooShort))
    else if t.head? ≠ some 0x3A#8 then x = .next (s.raise (.hexFormat .badStart))
    else if ∃ c ∈ t.tail, isHexDigit c = false then x = .next (s.raise (.hexFormat .badDigit))
    else if t.length ≠ 11 + 2 * n then x = .next (s.raise (.hexFormat .lengthMismatch))
    else (x = .next (s.raise (.hexFormat .checksum)) ∨ ∃ r : Record, x = .next (s.deliver (.ok (.record r))))

/-- R157: the raw bytes of a line that parses to a record are its byte count, address high and low, type, data and checksum,
`byteCount + 5` bytes, with no colon and no white space; here also for every line the encoder writes, whose checksum makes the
sum 0 mod 256. -/
def Obligations.RecordBytesOfLine : Prop :=
  (∀ (line : Text) (r : Record), hexLineParse line = .ok (.record r) →
    ∃ raw : Bytes, recordBytes line = some raw ∧ raw.length = r.byteCount.toNat + 5 ∧
      raw = [r.byteCount, BitVec.ofNat 8 (r.address.toNat / 256), BitVec.ofNat 8 r.address.toNat, r.recordType]
        ++ r.data ++ [r.checksum]) ∧
  (∀ (pre post : Text) (tt : Byte) (address : U16) (data : Bytes),
    (∀ c ∈ pre, isBlank c = true) → (∀ c ∈ post, isBlank c = true) → data.length ≤ 255 →
    ∃ cc : Byte,
      recordBytes (pre ++ encodeRecord tt address data ++ post) =
        some ([BitVec.ofNat 8 data.length, BitVec.ofNat 8 (address.toNat / 256), BitVec.ofNat 8 address.toNat, tt]
          ++ data ++ [cc]) ∧
      (data.length + address.toNat / 256 + address.toNat % 256 + tt.toNat + (data.map BitVec.toNat).sum + cc.toNat) % 256 = 0)

/-! ### Hex records (43_hex.md §3) -/

/-- R150, R152, R61: a Data record with the host answering Continue emits each byte in order from `xaddr + address` on, sets
startAddr if it is the first, sets endAddr, and changes nothing else. -/
def Obligations.DataRecordEmits : Prop :=
  ∀ (s : State) (address : U16) (data : Bytes) (rest : List EmitAnswer),
    s.hex.consumer = .host → s.hex.eofSeen = false → s.answers = List.replicate data.length .cont ++ rest →
    exec (.recData address data) s = .next
      { s with
        hex := { s.hex with
          startAddr := some (s.hex.startAddr.getD (s.hex.xaddr.toNat + address.toNat))
          endAddr := some (s.hex.xaddr.toNat + address.toNat + data.length)
          pos := s.hex.pos + 1 }
        answers := rest
        trace := s.trace ++ emitted .host (s.hex.xaddr.toNat + address.toNat) data }

/-- R50, R52: the bytes a Data record emits are what the image space then holds at their addresses, and every other byte of the
image space reads as before. The image as a view of the emissions to the host is the model's reading (log 11). -/
def Obligations.DataRecordWritesImage : Prop :=
  ∀ (s : State) (address : U16) (data : Bytes) (rest : List EmitAnswer),
    s.hex.consumer = .host → s.hex.eofSeen = false → s.answers = List.replicate data.length .cont ++ rest →
    ∃ t : State, exec (.recData address data) s = .next t ∧
      (∀ i (h : i < data.length), t.imageByte (s.hex.xaddr.toNat + address.toNat + i) = data[i]) ∧
      (∀ a, a < s.hex.xaddr.toNat + address.toNat ∨ s.hex.xaddr.toNat + address.toNat + data.length ≤ a →
        t.imageByte a = s.imageByte a)

/-- R151: when the host answers Stop to byte `k`, the rest of the record is not emitted, the pass ends with `Ok(Stopped)`. That
the record by itself ends the operation so is the model's choice (log 16); `HexFileStopEndsPass` says it of HEX_FILE_PARSE. -/
def Obligations.DataRecordStops : Prop :=
  ∀ (s : State) (address : U16) (before : Bytes) (v : Byte) (after : Bytes) (rest : List EmitAnswer),
    s.hex.consumer = .host → s.hex.eofSeen = false →
    s.answers = List.replicate before.length .cont ++ .stop :: rest →
    exec (.recData address (before ++ v :: after)) s = .next
      (State.finish
        { s with
          answers := rest
          trace := s.trace ++ emitted .host (s.hex.xaddr.toNat + address.toNat) before
            ++ [.emit .host (s.hex.xaddr.toNat + address.toNat + before.length) v .stop] }
        (.ok .stopped))

/-- R154: an ExtLinearAddr record of two bytes replaces xaddr by their value under ELA_MODE, whatever its address field, and
changes nothing else but the line index; any other length raises BadElaLength. -/
def Obligations.ElaRecordSetsOffset : Prop :=
  (∀ (s : State) (address : U16) (d0 d1 : Byte), ∃ x : U32,
    exec (.recExtLinearAddr address [d0, d1]) s = .next { s with hex := { s.hex with xaddr := x, pos := s.hex.pos + 1 } } ∧
    x.toNat = match s.config.elaMode with
      | .standard => d0.toNat * 2 ^ 24 + d1.toNat * 2 ^ 16
      | .legacy => d0.toNat * 2 ^ 16 + d1.toNat * 2 ^ 24) ∧
  (∀ (s : State) (address : U16) (data : Bytes), data.length ≠ 2 →
    exec (.recExtLinearAddr address data) s = .next (s.raise (.hexFormat .badElaLength)))

/-- R155: the three no-operation record types change no register of the parser but the line index, emit nothing, and check
nothing. -/
def Obligations.NoOperationRecords : Prop :=
  ∀ (s : State) (address : U16) (data : Bytes),
    exec (.recExtSegmentAddr address data) s = .next { s with hex := { s.hex with pos := s.hex.pos + 1 } } ∧
    exec (.recStartSegmentAddr address data) s = .next { s with hex := { s.hex with pos := s.hex.pos + 1 } } ∧
    exec (.recStartLinearAddr address data) s = .next { s with hex := { s.hex with pos := s.hex.pos + 1 } }

/-- R150, R153, R156: an EndOfFile record sets eofSeen, whatever its address and data; a Data record after it raises DataAfterEof
and emits nothing; a record of an unknown type raises UnknownType. -/
def Obligations.EofAndUnknownRecords : Prop :=
  ∀ (s : State) (address : U16) (data : Bytes) (tt : Byte),
    exec (.recEndOfFile address data) s =
      .next { s with hex := { s.hex with eofSeen := true, pos := s.hex.pos + 1 } } ∧
    (s.hex.eofSeen = true → exec (.recData address data) s = .next (s.raise (.hexFormat .dataAfterEof))) ∧
    (5 < tt.toNat → exec (.recUnknown tt address data) s = .next (s.raise (.hexFormat .unknownType)))

/-! ### Passes (43_hex.md §2) -/

/-- R146, R147: a pass runs each record line as `exec` of the record decoded from it, settled as a step by itself as the model
chooses (log 16). -/
def Obligations.PassRunsDecodedRecords : Prop :=
  ∀ (line : Text) (r : Record) (s : State), hexLineParse line = .ok (.record r) →
    decodeLine line = .ok (decodeRecord r) ∧
    exec (decodeRecord r) s = .next (lineStep line s).settle

/-- R146, R148, R150, R152, R154: the file of one ExtLinearAddr record, one or more Data records and an EndOfFile record, with
the host answering Continue, emits the records' bytes in file order at the offset addresses and returns the first record's start
and the last record's end. -/
def Obligations.HexFileOfDataRecords : Prop :=
  ∀ (s : State) (d0 d1 : Byte) (first last : U16 × Bytes) (mid recs : List (U16 × Bytes)) (rest : List EmitAnswer),
    (recs = [first] ∧ last = first ∨ recs = first :: mid ++ [last]) →
    (∀ r ∈ recs, r.2.length ≤ 255) →
    s.answers = List.replicate ((recs.map fun r => r.2.length).sum) .cont ++ rest →
    exec (.hexFileParse (.lines (dataFile d0 d1 recs))) s = .next
      (State.finish
        { s with
          answers := rest
          trace := s.trace ++ dataEvents .host (elaBase s.config.elaMode d0 d1) recs }
        (.ok (.window (some (elaBase s.config.elaMode d0 d1 + first.1.toNat))
          (some (elaBase s.config.elaMode d0 d1 + last.1.toNat + last.2.length)))))

/-- R146, R148, R213: a file of skipped lines, or of none, emits nothing; HEX_FILE_PARSE of it gives `Window(none, none)`, and
RANGE_CRC of it the CRC of the whole window as 0xFF (CRC_INIT for an empty window). -/
def Obligations.FilesOfSkippedLines : Prop :=
  ∀ (ls : List Text) (start stop : Nat) (s : State), (∀ l ∈ ls, hexLineParse l = .ok .skip) →
    exec (.hexFileParse (.lines ls)) s = .next (s.finish (.ok (.window none none))) ∧
    exec (.rangeCrc (.lines ls) start stop) s =
      .next (s.finish (.ok (.word (bitCrc s.config.crcInit (List.replicate (stop - start) 0xFF#8)))))

/-- R149, R236, R237, with R142, R144, R150, R154, R156 for the errors: a line ends a pass with an error exactly where the line
parser refuses it, where its record's type is unknown, where it is an ExtLinearAddr record without two data bytes, and where it
is a Data record after an EndOfFile record. When the lines before such a line pass, HEX_FILE_PARSE ends with its error; the
emissions made stay made; no later line matters. -/
def Obligations.HexFileErrorEndsPass : Prop :=
  (∀ (bad : Text) (d : HexDetail) (t : State), (∃ u, lineStep bad t = .failed d u) ↔
    (hexLineParse bad = .error d ∨ ∃ r : Record, hexLineParse bad = .ok (.record r) ∧
      (5 < r.recordType.toNat ∧ d = .unknownType ∨
        r.recordType = 0x04#8 ∧ r.data.length ≠ 2 ∧ d = .badElaLength ∨
        r.recordType = 0x00#8 ∧ t.hex.eofSeen = true ∧ d = .dataAfterEof))) ∧
  (∀ (good later : List Text) (bad : Text) (d : HexDetail) (s t u : State),
    passLoop good (s.begin.openPass .host) = .more t → lineStep bad t = .failed d u →
    exec (.hexFileParse (.lines (good ++ bad :: later))) s = .next (t.raise (.hexFormat d)) ∧
    ∃ es : List Event, t.trace = s.trace ++ es ∧ ∀ e ∈ es, ∃ a v ans, e = .emit .host a v ans)

/-- R151, R150: a Stop inside HEX_FILE_PARSE ends the operation with `Ok(Stopped)`, and no later line is read: first for a pass
over lines that ends in a Stop, whatever lines follow; then, byte by byte, for a Data record whose line comes after lines that
pass, with the host answering Continue to the bytes before `v` and Stop to `v`. -/
def Obligations.HexFileStopEndsPass : Prop :=
  (∀ (ls later : List Text) (s t : State), passLoop ls (s.begin.openPass .host) = .stopped t →
    exec (.hexFileParse (.lines (ls ++ later))) s = .next (t.finish (.ok .stopped)) ∧
    ∃ (es : List Event) (a : Nat) (v : Byte), t.trace = s.trace ++ es ++ [.emit .host a v .stop] ∧
      ∀ e ∈ es, ∃ a' v', e = .emit .host a' v' .cont) ∧
  (∀ (good later : List Text) (line : Text) (r : Record) (before : Bytes) (v : Byte) (after : Bytes)
      (rest : List EmitAnswer) (s t : State),
    passLoop good (s.begin.openPass .host) = .more t →
    hexLineParse line = .ok (.record r) → r.recordType = 0x00#8 → r.data = before ++ v :: after →
    t.hex.eofSeen = false → t.answers = List.replicate before.length .cont ++ .stop :: rest →
    exec (.hexFileParse (.lines (good ++ line :: later))) s = .next
      (State.finish
        { t with
          answers := rest
          trace := t.trace ++ emitted .host (t.hex.xaddr.toNat + r.address.toNat) before
            ++ [.emit .host (t.hex.xaddr.toNat + r.address.toNat + before.length) v .stop] }
        (.ok .stopped)))

/-- R50, R52, R61: whatever the file and whatever the host answers, HEX_FILE_PARSE completes: it shows emissions to the host and
then one outcome, writes the image space at the emitted addresses only, and changes nothing else but the host's answers. The
image as a view of the emissions to the host is the model's reading (log 11). -/
def Obligations.HexFileWritesOnlyEmitted : Prop :=
  ∀ (src : HexText) (s : State), ∃ (t : State) (es : List Event) (o : Result),
    exec (.hexFileParse src) s = .next t ∧
    t.trace = s.trace ++ es ++ [.outcome o] ∧
    (∀ e ∈ es, ∃ a v ans, e = .emit .host a v ans) ∧
    (∀ a, (∀ w ∈ emissionsTo .host es, w.1 ≠ a) → t.imageByte a = s.imageByte a) ∧
    t.AtRest ∧ t.config = s.config ∧ t.port = s.port.tail ∧ t.transport = s.transport

/-- R82, R210: a byte stream is its lines, each ended by LF, the last one with or without; the outcome of HEX_FILE_PARSE, and of
RANGE_CRC on any window, is that of the lines. (That an empty last segment is no line is log 17.) -/
def Obligations.StreamIsItsLines : Prop :=
  ∀ (ls : List Text) (final : Text) (start stop : Nat) (s : State),
    (∀ l ∈ ls, 0x0A#8 ∉ l) → 0x0A#8 ∉ final → final ≠ [] →
    exec (.hexFileParse (.stream (ls.flatMap fun l => l ++ [0x0A#8]))) s = exec (.hexFileParse (.lines ls)) s ∧
    exec (.hexFileParse (.stream ((ls.flatMap fun l => l ++ [0x0A#8]) ++ final))) s =
      exec (.hexFileParse (.lines (ls ++ [final]))) s ∧
    exec (.rangeCrc (.stream (ls.flatMap fun l => l ++ [0x0A#8])) start stop) s =
      exec (.rangeCrc (.lines ls) start stop) s ∧
    exec (.rangeCrc (.stream ((ls.flatMap fun l => l ++ [0x0A#8]) ++ final)) start stop) s =
      exec (.rangeCrc (.lines (ls ++ [final])) start stop) s

/-! ### Sessions (44_session.md) -/

/-- R172, R75, R171: OPSEL 0x07 is REQUEST_ENCODE, which answers the framed message of the request's body, byte by byte, for every operation and
every operand. -/
def Obligations.RequestEncodeFrames : Prop :=
  ∀ (req : Request) (s : State),
    decode (.port ⟨0x07#8, .request req⟩) = .ok (.requestEncode req) ∧
    exec (.requestEncode req) s = .next (s.finish (.ok (.frame (wireFrame s.config.crcInit (requestLayout req)))))

/-- R79, whose CRC and frame the spec marks as derived: the worked encoding of READ_CRC(0x1000, 0x100). -/
def Obligations.ReadCrcWorkedEncoding : Prop :=
  requestLayout (.readCrc 0x1000#32 0x100#32) =
    [0x04#8, 0x00#8, 0x10#8, 0x00#8, 0x00#8, 0x00#8, 0x01#8, 0x00#8, 0x00#8] ∧
  bitCrc 0xFFFF#16 [0x04#8, 0x00#8, 0x10#8, 0x00#8, 0x00#8, 0x00#8, 0x01#8, 0x00#8, 0x00#8] = 0x84D6#16 ∧
  message 0xFFFF#16 (requestLayout (.readCrc 0x1000#32 0x100#32)) =
    [0x04#8, 0x00#8, 0x10#8, 0x00#8, 0x00#8, 0x00#8, 0x01#8, 0x00#8, 0x00#8, 0xD6#8, 0x84#8] ∧
  ∀ s : State, s.config.crcInit = 0xFFFF#16 →
    exec (.requestEncode (.readCrc 0x1000#32 0x100#32)) s = .next (s.finish (.ok (.frame
      [0x01#8, 0x10#8, 0x04#8, 0x00#8, 0x10#8, 0x10#8, 0x00#8, 0x00#8, 0x00#8, 0x10#8, 0x01#8, 0x00#8, 0x00#8,
       0xD6#8, 0x84#8, 0x04#8])))

/-- R170, R171, R173, log 19: a request message on the wire latches `SES.op`, leaves the body's CRC and the frame in the CRC and
encoder registers, and is written whole in one TxWrite; nothing else changes. -/
def Obligations.RequestMessagesAreWritten : Prop :=
  ∀ (i : Instr) (req : Request) (s : State), wireRequest i = some req →
    exec i s = .next
      { s with
        ses := { s.ses with op := req.opcode }
        crc := { acc := bitCrc s.config.crcInit (requestLayout req), pos := (requestLayout req).length }
        enc := { pos := (requestLayout req).length + 2, out := wireFrame s.config.crcInit (requestLayout req) }
        trace := s.trace ++ [.txWrite (wireFrame s.config.crcInit (requestLayout req))] }

/-- R177, R179, R176: a framed, CRC-correct response, with any bytes after it, decodes to its tagged value. -/
def Obligations.ResponseRoundTrip : Prop :=
  ∀ (v : Response) (pad : Bytes) (s : State),
    exec (.responseDecode (wireFrame s.config.crcInit (responseLayout v) ++ pad) false) s =
      .next (s.finish (.ok (.response v)))

/-- R175, R177, R178, R233, R238: the errors of RESPONSE_DECODE: the timeout before all others; the frame decoder's; then, on an
unframed payload and in their order: too short for a CRC, wrong CRC, no opcode, unknown opcode, wrong length. -/
def Obligations.ResponseErrors : Prop :=
  ∀ (s : State) (pad : Bytes),
    (∀ r : Bytes, exec (.responseDecode r true) s = .next (s.raise .noResponse)) ∧
    (∀ (r : Bytes) (d : FramingDetail), exec (.frameDecode r) s = .next (s.raise (.framing d)) →
      exec (.responseDecode r false) s = .next (s.raise (.framing d))) ∧
    (∀ p : Bytes, p.length < 2 →
      exec (.responseDecode (startByte :: stuffed p ++ endByte :: pad) false) s = .next (s.raise (.crcMismatch .short))) ∧
    (∀ (body : Bytes) (lo hi : Byte), lo.toNat + 256 * hi.toNat ≠ (bitCrc s.config.crcInit body).toNat →
      exec (.responseDecode (startByte :: stuffed (body ++ [lo, hi]) ++ endByte :: pad) false) s =
        .next (s.raise (.crcMismatch .mismatch))) ∧
    exec (.responseDecode (wireFrame s.config.crcInit [] ++ pad) false) s = .next (s.raise (.unrecognizedOp none)) ∧
    (∀ (op : Byte) (rest : Bytes), op.toNat = 0 ∨ 5 < op.toNat →
      exec (.responseDecode (wireFrame s.config.crcInit (op :: rest) ++ pad) false) s =
        .next (s.raise (.unrecognizedOp (some op)))) ∧
    (∀ (op : Byte) (rest : Bytes),
      ((op = 0x01#8 ∨ op = 0x04#8) ∧ rest.length ≠ 2) ∨ ((op = 0x02#8 ∨ op = 0x03#8 ∨ op = 0x05#8) ∧ rest ≠ []) →
      exec (.responseDecode (wireFrame s.config.crcInit (op :: rest) ++ pad) false) s =
        .next (s.raise (.framing .badLength)))

/-- R179, R233: the meanings of the five response messages: the exact length, and the little-endian value; an unrecognized
response raises UnrecognizedOpError with the offending opcode, or none for an empty body. -/
def Obligations.ResponseMessageDecoders : Prop :=
  ∀ (s : State) (lo hi : Byte) (rest : Bytes),
    (∃ v : U16, v.toNat = lo.toNat + 256 * hi.toNat ∧
      exec (.rspReadBootInfo [lo, hi]) s = .next (s.finish (.ok (.response (.readBootInfo v)))) ∧
      exec (.rspReadCrc [lo, hi]) s = .next (s.finish (.ok (.response (.readCrc v))))) ∧
    exec (.rspEraseFlash []) s = .next (s.finish (.ok (.response .eraseFlash))) ∧
    exec (.rspProgramFlash []) s = .next (s.finish (.ok (.response .programFlash))) ∧
    exec (.rspJumpToApp []) s = .next (s.finish (.ok (.response .jumpToApp))) ∧
    (rest.length ≠ 2 →
      exec (.rspReadBootInfo rest) s = .next (s.raise (.framing .badLength)) ∧
      exec (.rspReadCrc rest) s = .next (s.raise (.framing .badLength))) ∧
    (rest ≠ [] →
      exec (.rspEraseFlash rest) s = .next (s.raise (.framing .badLength)) ∧
      exec (.rspProgramFlash rest) s = .next (s.raise (.framing .badLength)) ∧
      exec (.rspJumpToApp rest) s = .next (s.raise (.framing .badLength))) ∧
    exec (.rspUnrecognized []) s = .next (s.raise (.unrecognizedOp none)) ∧
    (∀ op : Byte, exec (.rspUnrecognized (op :: rest)) s = .next (s.raise (.unrecognizedOp (some op))))

/-- R177: RESPONSE_DECODE of a framed message runs the response message decoded from its body. -/
def Obligations.ResponseDecodeRunsMessage : Prop :=
  ∀ (body pad : Bytes) (s : State),
    exec (.responseDecode (wireFrame s.config.crcInit body ++ pad) false) s = exec (decodeResponseBody body) s

/-- R170, R173, R174, R61: each of the four reading session operations writes its request frame, makes exactly one read of
READ_MAX bytes within TIMEOUT_MS, and then does what RESPONSE_DECODE does with the answer; that an answer longer than READ_MAX is cut
to it is the model's choice (log 5). -/
def Obligations.ExchangeWritesReadsDecodes : Prop :=
  ∀ (i : Instr) (req : Request) (s : State) (a : ReadAnswer) (rest : List ReadAnswer),
    sessionRequest i = some req → req ≠ .jumpToApp → s.transport = a :: rest →
    exec i s = exec (.responseDecode (a.bytes.take s.config.readMax) a.timedOut)
      { s with
        transport := rest
        trace := s.trace ++
          [.txWrite (wireFrame s.config.crcInit (requestLayout req)),
           .txRead s.config.readMax s.config.timeoutMs (a.bytes.take s.config.readMax) a.timedOut] }

/-- R170, R180, R181, R182, R183, R185: when the transport answers any of the four reading session operations with a framed,
CRC-correct response that fits in READ_MAX bytes, the operation returns that response, whichever operation it names. -/
def Obligations.ExchangeReturnsResponse : Prop :=
  ∀ (i : Instr) (req : Request) (s : State) (v : Response) (pad : Bytes) (rest : List ReadAnswer),
    sessionRequest i = some req → req ≠ .jumpToApp →
    s.transport = ⟨wireFrame s.config.crcInit (responseLayout v) ++ pad, false⟩ :: rest →
    (wireFrame s.config.crcInit (responseLayout v) ++ pad).length ≤ s.config.readMax →
    exec i s = .next (State.finish
      { s with
        transport := rest
        trace := s.trace ++
          [.txWrite (wireFrame s.config.crcInit (requestLayout req)),
           .txRead s.config.readMax s.config.timeoutMs (wireFrame s.config.crcInit (responseLayout v) ++ pad) false] }
      (.ok (.response v)))

/-- R31: whatever the transport does (the free draw included), an exchange completes: one write, one read of at most READ_MAX
bytes, one outcome. -/
def Obligations.ExchangeAlwaysCompletes : Prop :=
  ∀ (i : Instr) (req : Request) (s : State), sessionRequest i = some req → req ≠ .jumpToApp →
    ∃ (t : State) (r : Bytes) (timedOut : Bool) (o : Result),
      exec i s = .next t ∧ r.length ≤ s.config.readMax ∧
      t.trace = s.trace ++
        [.txWrite (wireFrame s.config.crcInit (requestLayout req)),
         .txRead s.config.readMax s.config.timeoutMs r timedOut, .outcome o] ∧
      (timedOut = true → o = .err .noResponse)

/-- R187: OPSEL 0x0D is JUMP_TO_APP, which writes its request, reads nothing, and returns `Ok(none)`; with CRC_INIT = 0xFFFF the frame is
`01 05 55 B1 04`. -/
def Obligations.JumpToAppWritesOnly : Prop :=
  decode (.port ⟨0x0D#8, .none⟩) = .ok .jumpToApp ∧
  (∀ s : State, exec .jumpToApp s = .next (State.finish
    { s with trace := s.trace ++ [.txWrite (wireFrame s.config.crcInit [0x05#8])] } (.ok .nothing))) ∧
  wireFrame 0xFFFF#16 [0x05#8] = [0x01#8, 0x05#8, 0x55#8, 0xB1#8, 0x04#8]

/-! ### Range CRC (45_range_crc.md) -/

/-- R212, R215: what the range-CRC unit does with one emission, as a one-byte Data record of its pass. Every case, in the order
of the checks; startAddr and endAddr are R150's. That a record which is stopped or refused by itself leaves the pass with its
flags set is the model's choice (log 16), and that its line index then stays is the model's reading of R21 (log 25). -/
def Obligations.RangeConsumerByte : Prop :=
  ∀ (s : State) (address : U16) (v : Byte), s.hex.consumer = .range → s.hex.eofSeen = false →
    let a := s.hex.xaddr.toNat + address.toNat
    let h : HexUnit := { s.hex with startAddr := some (s.hex.startAddr.getD a) }
    let h' : HexUnit := { h with endAddr := some (a + 1), pos := s.hex.pos + 1 }
    let x := exec (.recData address [v]) s
    if a < s.rng.start then
      x = .next { s with hex := h', trace := s.trace ++ [.emit .range a v .cont] }
    else if s.rng.stop ≤ a then
      x = .next { s with
        hex := h, rng := { s.rng with stopped := true }, trace := s.trace ++ [.emit .range a v .stop] }
    else if ∀ c, s.rng.cursor = some c → c ≤ a then
      x = .next { s with
        hex := h'
        rng := { s.rng with
          crc := bitCrc s.rng.crc (List.replicate (a - s.rng.cursor.getD a) 0xFF#8 ++ [v]), cursor := some (a + 1) }
        trace := s.trace ++ [.emit .range a v .cont] }
    else match s.config.rangeBackward with
      | .refuse => x = .next { s with
          hex := h, rng := { s.rng with refused := true }, trace := s.trace ++ [.emit .range a v .stop] }
      | .fold => x = .next { s with
          hex := h'
          rng := { s.rng with crc := bitCrc s.rng.crc [v], cursor := some (a + 1) }
          trace := s.trace ++ [.emit .range a v .cont] }

/-- R214, which the spec marks as derived: RANGE_CRC shows only emissions to its own unit and then one outcome; if that is no error and no refusal, and the
in-window emissions strictly increase in address, it is the CRC of the image's bytes from the first in-window emission (or from
`start`) to the window's end. -/
def Obligations.RangeCrcIsImageCrc : Prop :=
  ∀ (src : HexText) (start stop : Nat) (s : State), ∃ (es : List Event) (o : Result),
    exec (.rangeCrc src start stop) s = .next (State.finish { s with trace := s.trace ++ es } o) ∧
    (∀ e ∈ es, ∃ a v ans, e = .emit .range a v ans) ∧
    ((∃ d, o = .err (.hexFormat d)) ∨ o = .refused .rangeNonMonotonic ∨
      (Increasing (inWindow start stop (emissionsTo .range es)) →
        o = .ok (.word (bitCrc s.config.crcInit
          (windowBytes start stop (inWindow start stop (emissionsTo .range es)))))))

/-- R212, R213: a file of one Data record lying in the window: the record's bytes, then 0xFF up to the window's end; nothing
for the part of the window before the record. -/
def Obligations.RangeCrcOfOneRecord : Prop :=
  ∀ (d0 d1 : Byte) (address : U16) (data : Bytes) (start stop : Nat) (s : State),
    data ≠ [] → data.length ≤ 255 →
    start ≤ elaBase s.config.elaMode d0 d1 + address.toNat →
    elaBase s.config.elaMode d0 d1 + address.toNat + data.length ≤ stop →
    exec (.rangeCrc (.lines (dataFile d0 d1 [(address, data)])) start stop) s = .next (State.finish
      { s with trace := s.trace ++ dataEvents .range (elaBase s.config.elaMode d0 d1) [(address, data)] }
      (.ok (.word (bitCrc s.config.crcInit (data ++
        List.replicate (stop - (elaBase s.config.elaMode d0 d1 + address.toNat + data.length)) 0xFF#8)))))

/-- R215, R239: two one-byte records in the window, the second below the first: refused under RANGE_BACKWARD = refuse, with no
CRC; under fold the second byte is folded with no gap fill, and the padding starts after it. -/
def Obligations.RangeBackwardRefusedOrFolded : Prop :=
  ∀ (s : State) (a1 a2 : U16) (v1 v2 : Byte) (start stop : Nat),
    start ≤ a2.toNat → a2.toNat ≤ a1.toNat → a1.toNat < stop →
    ∃ es : List Event, ∃ o : Result,
      exec (.rangeCrc (.lines [encodeRecord 0x00#8 a1 [v1], encodeRecord 0x00#8 a2 [v2]]) start stop) s =
        .next (State.finish { s with trace := s.trace ++ es } o) ∧
      (s.config.rangeBackward = .refuse → o = .refused .rangeNonMonotonic) ∧
      (s.config.rangeBackward = .fold → o = .ok (.word (bitCrc s.config.crcInit
        ([v1, v2] ++ List.replicate (stop - (a2.toNat + 1)) 0xFF#8))))

/-- R216: an error of the pass before any Stop ends RANGE_CRC with that error; after a Stop no later line is read. -/
def Obligations.RangeErrorsAndAbandonment : Prop :=
  ∀ (ls later : List Text) (start stop : Nat) (s t : State),
    (∀ d, passLoop ls (s.begin.openRange start stop) = .failed d t →
      exec (.rangeCrc (.lines (ls ++ later)) start stop) s = .next (t.raise (.hexFormat d))) ∧
    (passLoop ls (s.begin.openRange start stop) = .stopped t →
      exec (.rangeCrc (.lines (ls ++ later)) start stop) s = exec (.rangeCrc (.lines ls) start stop) s)

/-! ### The machine -/

/-- R29, R97, R271: with an operation presented, a step is `exec` of the operation decoded from the head of the port, which is
well formed; with nothing presented the block stays idle (log 3). -/
def Obligations.StepRunsPresentedOperation : Prop :=
  (∀ (s : State) (p : Presentation) (ps : List Presentation) (i : Instr),
    s.port = p :: ps → decode (.port p) = .ok i → step s = exec i s ∧ i.wellFormed = true) ∧
  (∀ s : State, s.port = [] → step s = .next s)

/-- R99: every well-formed instruction of every level is read back from the way it is written (record lines in the
encoder's form, log 20). -/
def Obligations.DecodeOfEncode : Prop :=
  ∀ i : Instr, i.wellFormed = true → decode (encode i) = .ok i

/-- R97, R75, R76, R84, R71: words written out from the spec's encodings decode to the instructions they stand for. -/
def Obligations.WrittenWordsDecode : Prop :=
  decode (.port ⟨0x0C#8, .window 0x1000#32 0x100#32⟩) = .ok (.readCrc 0x1000#32 0x100#32) ∧
  decode (.port ⟨0x0F#8, .none⟩) = .ok (.opselUnknown 0x0F#8) ∧
  decode (.request [0x04#8, 0x00#8, 0x10#8, 0x00#8, 0x00#8, 0x00#8, 0x01#8, 0x00#8, 0x00#8]) =
    .ok (.reqReadCrc 0x1000#32 0x100#32) ∧
  decode (.response [0x04#8, 0xFF#8, 0xAE#8]) = .ok (.rspReadCrc [0xFF#8, 0xAE#8]) ∧
  decode (.record [0x3A#8, 0x30#8, 0x30#8, 0x30#8, 0x30#8, 0x30#8, 0x30#8, 0x30#8, 0x31#8, 0x46#8, 0x46#8]) =
    .ok (.recEndOfFile 0x0000#16 []) ∧
  decode (.symbol 0x10#8) = .ok .frameEscape

/-- R97, R239: every unassigned OPSEL selects no operation and returns `Refused(UnknownOperation)`, with no other event. That it
does so with any operands beside it is the model's choice (log 26). -/
def Obligations.UnknownOpselRefused : Prop :=
  ∀ (code : Byte) (ops : Operands) (s : State), code.toNat = 0 ∨ 15 ≤ code.toNat →
    decode (.port ⟨code, ops⟩) = .ok (.opselUnknown code) ∧
    exec (.opselUnknown code) s = .next (s.finish (.refused .unknownOperation))

/-- R236, R34: raising an error ends the operation: its outcome is the one new event, its presentation leaves the port, every unit
register is at its reset value (those R34 does not give are the model's choice, log 9), and nothing else changes. -/
def Obligations.RaiseEndsOperation : Prop :=
  ∀ (s : State) (e : Err), s.raise e =
    { config := s.config
      crc := { acc := s.config.crcInit, pos := 0 }
      frm := { phase := .expectStart, escaping := false, out := [], pos := 0, input := [], rem := [] }
      enc := { pos := 0, out := [] }
      hex := { xaddr := 0#32, eofSeen := false, startAddr := none, endAddr := none, pos := 0, consumer := .host }
      rng := { crc := s.config.crcInit, cursor := none, start := 0, stop := 0, stopped := false, refused := false }
      ses := { op := 0x00#8, rx := [], timedOut := false }
      port := s.port.tail
      answers := s.answers
      transport := s.transport
      draws := s.draws
      trace := s.trace ++ [.outcome (.err e)] }

/-- R22, R270: no instruction of any level changes the configuration. -/
def Obligations.ConfigurationIsConstant : Prop :=
  ∀ (i : Instr) (s t : State), exec i s = .next t → t.config = s.config

/-- R50, R52, log 11: Emit to the host is the only memory write. No instruction but HEX_FILE_PARSE and a Data record of a host
pass changes any byte of the image space; the emissions inside RANGE_CRC do not. -/
def Obligations.ImageUnchangedElsewhere : Prop :=
  ∀ (i : Instr) (s t : State),
    (match i with
      | .hexFileParse _ => False
      | .recData _ _ => s.hex.consumer = .range
      | _ => True) →
    exec i s = .next t → ∀ a, t.imageByte a = s.imageByte a

/-- R15, R29, R35: serving a presentation removes it and shows port events and then exactly one outcome. -/
def Obligations.OneOutcomePerOperation : Prop :=
  ∀ (s : State) (p : Presentation) (ps : List Presentation) (i : Instr),
    s.port = p :: ps → decodePort p = .ok i →
    ∃ (t : State) (es : List Event) (o : Result), step s = .next t ∧ t.port = ps ∧
      t.trace = s.trace ++ es ++ [.outcome o] ∧ ∀ e ∈ es, e.isPortEvent = true

/-- R58: the seven pure operations make no event but their outcome and use up no answer of any port. -/
def Obligations.PureOperationsUseNoPort : Prop :=
  ∀ (i : Instr) (s : State),
    (match i with
      | .crcStep _ _ | .crcCompute _ | .frameEncode _ | .frameDecode _ | .hexLineParse _ | .requestEncode _
      | .responseDecode _ _ => True
      | _ => False) →
    ∃ (t : State) (o : Result), exec i s = .next t ∧ t.trace = s.trace ++ [.outcome o] ∧ t.port = s.port.tail ∧
      t.answers = s.answers ∧ t.transport = s.transport ∧ t.draws = s.draws

/-- R272: what a step shows, and the answers it uses up, depend only on the configuration, the presentation and the answers on
the ports, never on what earlier operations have left in the unit registers or shown. -/
def Obligations.OutcomeIndependentOfHistory : Prop :=
  ∀ (s s' t : State), s.SamePorts s' → step s = .next t →
    ∃ (t' : State) (es : List Event), step s' = .next t' ∧
      t.trace = s.trace ++ es ∧ t'.trace = s'.trace ++ es ∧ t.SamePorts t'

/-- R22, R31, R34, R51, R73, R148: every step keeps the invariant: a legal and unchanged configuration, unit registers at rest
between operations (the model's form of R34, log 13), and only lawful events shown. -/
def Obligations.StepKeepsInvariant : Prop :=
  ∀ s t : State, s.Inv → step s = .next t → t.Inv

/-- R34, R270, R271: the state after reset, with any legal configuration, satisfies the invariant, is idle with nothing presented
and nothing shown; the default configuration is that of R10 (VID and PID as log 8 chooses). -/
def Obligations.ResetSatisfiesInvariant : Prop :=
  (∀ c : Configuration, c.legal = true → (State.resetWith c).Inv ∧
    (State.resetWith c).port = [] ∧ (State.resetWith c).trace = [] ∧ (State.resetWith c).config = c) ∧
  State.reset.Inv ∧
  State.reset.config.crcInit = 0xFFFF#16 ∧ State.reset.config.elaMode = .standard ∧
  State.reset.config.rangeBackward = .refuse ∧ State.reset.config.readMax = 64 ∧ State.reset.config.timeoutMs = 5000
end

