-- ==== Sys2Proof/Laws/State.lean ====
section
/-! SUPPORT. What each state update does to each field of the state: one lemma per field and update, so that no later proof
unfolds an update. -/

namespace Sys2Proof.Machine

variable (s : State)

/-! ### `State.note` -/

@[simp] theorem State.note_config (e : Event) : (s.note e).config = s.config := rfl
@[simp] theorem State.note_crc (e : Event) : (s.note e).crc = s.crc := rfl
@[simp] theorem State.note_frm (e : Event) : (s.note e).frm = s.frm := rfl
@[simp] theorem State.note_enc (e : Event) : (s.note e).enc = s.enc := rfl
@[simp] theorem State.note_hex (e : Event) : (s.note e).hex = s.hex := rfl
@[simp] theorem State.note_rng (e : Event) : (s.note e).rng = s.rng := rfl
@[simp] theorem State.note_ses (e : Event) : (s.note e).ses = s.ses := rfl
@[simp] theorem State.note_port (e : Event) : (s.note e).port = s.port := rfl
@[simp] theorem State.note_answers (e : Event) : (s.note e).answers = s.answers := rfl
@[simp] theorem State.note_transport (e : Event) : (s.note e).transport = s.transport := rfl
@[simp] theorem State.note_draws (e : Event) : (s.note e).draws = s.draws := rfl
@[simp] theorem State.note_trace (e : Event) : (s.note e).trace = s.trace ++ [e] := rfl

/-! ### `State.withFrm` -/

@[simp] theorem State.withFrm_config (f : FrmUnit) : (s.withFrm f).config = s.config := rfl
@[simp] theorem State.withFrm_crc (f : FrmUnit) : (s.withFrm f).crc = s.crc := rfl
@[simp] theorem State.withFrm_frm (f : FrmUnit) : (s.withFrm f).frm = f := rfl
@[simp] theorem State.withFrm_enc (f : FrmUnit) : (s.withFrm f).enc = s.enc := rfl
@[simp] theorem State.withFrm_hex (f : FrmUnit) : (s.withFrm f).hex = s.hex := rfl
@[simp] theorem State.withFrm_rng (f : FrmUnit) : (s.withFrm f).rng = s.rng := rfl
@[simp] theorem State.withFrm_ses (f : FrmUnit) : (s.withFrm f).ses = s.ses := rfl
@[simp] theorem State.withFrm_port (f : FrmUnit) : (s.withFrm f).port = s.port := rfl
@[simp] theorem State.withFrm_answers (f : FrmUnit) : (s.withFrm f).answers = s.answers := rfl
@[simp] theorem State.withFrm_transport (f : FrmUnit) : (s.withFrm f).transport = s.transport := rfl
@[simp] theorem State.withFrm_draws (f : FrmUnit) : (s.withFrm f).draws = s.draws := rfl
@[simp] theorem State.withFrm_trace (f : FrmUnit) : (s.withFrm f).trace = s.trace := rfl

/-! ### `State.withHex` -/

@[simp] theorem State.withHex_config (h : HexUnit) : (s.withHex h).config = s.config := rfl
@[simp] theorem State.withHex_crc (h : HexUnit) : (s.withHex h).crc = s.crc := rfl
@[simp] theorem State.withHex_frm (h : HexUnit) : (s.withHex h).frm = s.frm := rfl
@[simp] theorem State.withHex_enc (h : HexUnit) : (s.withHex h).enc = s.enc := rfl
@[simp] theorem State.withHex_hex (h : HexUnit) : (s.withHex h).hex = h := rfl
@[simp] theorem State.withHex_rng (h : HexUnit) : (s.withHex h).rng = s.rng := rfl
@[simp] theorem State.withHex_ses (h : HexUnit) : (s.withHex h).ses = s.ses := rfl
@[simp] theorem State.withHex_port (h : HexUnit) : (s.withHex h).port = s.port := rfl
@[simp] theorem State.withHex_answers (h : HexUnit) : (s.withHex h).answers = s.answers := rfl
@[simp] theorem State.withHex_transport (h : HexUnit) : (s.withHex h).transport = s.transport := rfl
@[simp] theorem State.withHex_draws (h : HexUnit) : (s.withHex h).draws = s.draws := rfl
@[simp] theorem State.withHex_trace (h : HexUnit) : (s.withHex h).trace = s.trace := rfl

/-! ### `State.withRng` -/

@[simp] theorem State.withRng_config (r : RngUnit) : (s.withRng r).config = s.config := rfl
@[simp] theorem State.withRng_crc (r : RngUnit) : (s.withRng r).crc = s.crc := rfl
@[simp] theorem State.withRng_frm (r : RngUnit) : (s.withRng r).frm = s.frm := rfl
@[simp] theorem State.withRng_enc (r : RngUnit) : (s.withRng r).enc = s.enc := rfl
@[simp] theorem State.withRng_hex (r : RngUnit) : (s.withRng r).hex = s.hex := rfl
@[simp] theorem State.withRng_rng (r : RngUnit) : (s.withRng r).rng = r := rfl
@[simp] theorem State.withRng_ses (r : RngUnit) : (s.withRng r).ses = s.ses := rfl
@[simp] theorem State.withRng_port (r : RngUnit) : (s.withRng r).port = s.port := rfl
@[simp] theorem State.withRng_answers (r : RngUnit) : (s.withRng r).answers = s.answers := rfl
@[simp] theorem State.withRng_transport (r : RngUnit) : (s.withRng r).transport = s.transport := rfl
@[simp] theorem State.withRng_draws (r : RngUnit) : (s.withRng r).draws = s.draws := rfl
@[simp] theorem State.withRng_trace (r : RngUnit) : (s.withRng r).trace = s.trace := rfl

/-! ### `State.withSes` -/

@[simp] theorem State.withSes_config (u : SesUnit) : (s.withSes u).config = s.config := rfl
@[simp] theorem State.withSes_crc (u : SesUnit) : (s.withSes u).crc = s.crc := rfl
@[simp] theorem State.withSes_frm (u : SesUnit) : (s.withSes u).frm = s.frm := rfl
@[simp] theorem State.withSes_enc (u : SesUnit) : (s.withSes u).enc = s.enc := rfl
@[simp] theorem State.withSes_hex (u : SesUnit) : (s.withSes u).hex = s.hex := rfl
@[simp] theorem State.withSes_rng (u : SesUnit) : (s.withSes u).rng = s.rng := rfl
@[simp] theorem State.withSes_ses (u : SesUnit) : (s.withSes u).ses = u := rfl
@[simp] theorem State.withSes_port (u : SesUnit) : (s.withSes u).port = s.port := rfl
@[simp] theorem State.withSes_answers (u : SesUnit) : (s.withSes u).answers = s.answers := rfl
@[simp] theorem State.withSes_transport (u : SesUnit) : (s.withSes u).transport = s.transport := rfl
@[simp] theorem State.withSes_draws (u : SesUnit) : (s.withSes u).draws = s.draws := rfl
@[simp] theorem State.withSes_trace (u : SesUnit) : (s.withSes u).trace = s.trace := rfl

/-! ### `State.deliver` -/

@[simp] theorem State.deliver_config (r : Result) : (s.deliver r).config = s.config := rfl
@[simp] theorem State.deliver_crc (r : Result) : (s.deliver r).crc = s.crc := rfl
@[simp] theorem State.deliver_frm (r : Result) : (s.deliver r).frm = s.frm := rfl
@[simp] theorem State.deliver_enc (r : Result) : (s.deliver r).enc = s.enc := rfl
@[simp] theorem State.deliver_hex (r : Result) : (s.deliver r).hex = s.hex := rfl
@[simp] theorem State.deliver_rng (r : Result) : (s.deliver r).rng = s.rng := rfl
@[simp] theorem State.deliver_ses (r : Result) : (s.deliver r).ses = s.ses := rfl
@[simp] theorem State.deliver_port (r : Result) : (s.deliver r).port = s.port.tail := rfl
@[simp] theorem State.deliver_answers (r : Result) : (s.deliver r).answers = s.answers := rfl
@[simp] theorem State.deliver_transport (r : Result) : (s.deliver r).transport = s.transport := rfl
@[simp] theorem State.deliver_draws (r : Result) : (s.deliver r).draws = s.draws := rfl
@[simp] theorem State.deliver_trace (r : Result) : (s.deliver r).trace = s.trace ++ [.outcome r] := rfl

/-! ### `State.clearUnits` -/

@[simp] theorem State.clearUnits_config : (s.clearUnits).config = s.config := rfl
@[simp] theorem State.clearUnits_crc : (s.clearUnits).crc = CrcUnit.reset s.config.crcInit := rfl
@[simp] theorem State.clearUnits_frm : (s.clearUnits).frm = FrmUnit.reset := rfl
@[simp] theorem State.clearUnits_enc : (s.clearUnits).enc = EncUnit.reset := rfl
@[simp] theorem State.clearUnits_hex : (s.clearUnits).hex = HexUnit.reset := rfl
@[simp] theorem State.clearUnits_rng : (s.clearUnits).rng = RngUnit.reset s.config.crcInit := rfl
@[simp] theorem State.clearUnits_ses : (s.clearUnits).ses = SesUnit.reset := rfl
@[simp] theorem State.clearUnits_port : (s.clearUnits).port = s.port := rfl
@[simp] theorem State.clearUnits_answers : (s.clearUnits).answers = s.answers := rfl
@[simp] theorem State.clearUnits_transport : (s.clearUnits).transport = s.transport := rfl
@[simp] theorem State.clearUnits_draws : (s.clearUnits).draws = s.draws := rfl
@[simp] theorem State.clearUnits_trace : (s.clearUnits).trace = s.trace := rfl

/-! ### `State.begin` -/

@[simp] theorem State.begin_config : (s.begin).config = s.config := rfl
@[simp] theorem State.begin_crc : (s.begin).crc = CrcUnit.reset s.config.crcInit := rfl
@[simp] theorem State.begin_frm : (s.begin).frm = FrmUnit.reset := rfl
@[simp] theorem State.begin_enc : (s.begin).enc = EncUnit.reset := rfl
@[simp] theorem State.begin_hex : (s.begin).hex = HexUnit.reset := rfl
@[simp] theorem State.begin_rng : (s.begin).rng = RngUnit.reset s.config.crcInit := rfl
@[simp] theorem State.begin_ses : (s.begin).ses = SesUnit.reset := rfl
@[simp] theorem State.begin_port : (s.begin).port = s.port := rfl
@[simp] theorem State.begin_answers : (s.begin).answers = s.answers := rfl
@[simp] theorem State.begin_transport : (s.begin).transport = s.transport := rfl
@[simp] theorem State.begin_draws : (s.begin).draws = s.draws := rfl
@[simp] theorem State.begin_trace : (s.begin).trace = s.trace := rfl

/-! ### `State.finish` -/

@[simp] theorem State.finish_config (r : Result) : (s.finish r).config = s.config := rfl
@[simp] theorem State.finish_crc (r : Result) : (s.finish r).crc = CrcUnit.reset s.config.crcInit := rfl
@[simp] theorem State.finish_frm (r : Result) : (s.finish r).frm = FrmUnit.reset := rfl
@[simp] theorem State.finish_enc (r : Result) : (s.finish r).enc = EncUnit.reset := rfl
@[simp] theorem State.finish_hex (r : Result) : (s.finish r).hex = HexUnit.reset := rfl
@[simp] theorem State.finish_rng (r : Result) : (s.finish r).rng = RngUnit.reset s.config.crcInit := rfl
@[simp] theorem State.finish_ses (r : Result) : (s.finish r).ses = SesUnit.reset := rfl
@[simp] theorem State.finish_port (r : Result) : (s.finish r).port = s.port.tail := rfl
@[simp] theorem State.finish_answers (r : Result) : (s.finish r).answers = s.answers := rfl
@[simp] theorem State.finish_transport (r : Result) : (s.finish r).transport = s.transport := rfl
@[simp] theorem State.finish_draws (r : Result) : (s.finish r).draws = s.draws := rfl
@[simp] theorem State.finish_trace (r : Result) : (s.finish r).trace = s.trace ++ [.outcome r] := rfl

/-! ### `State.raise` -/

@[simp] theorem State.raise_config (e : Err) : (s.raise e).config = s.config := rfl
@[simp] theorem State.raise_crc (e : Err) : (s.raise e).crc = CrcUnit.reset s.config.crcInit := rfl
@[simp] theorem State.raise_frm (e : Err) : (s.raise e).frm = FrmUnit.reset := rfl
@[simp] theorem State.raise_enc (e : Err) : (s.raise e).enc = EncUnit.reset := rfl
@[simp] theorem State.raise_hex (e : Err) : (s.raise e).hex = HexUnit.reset := rfl
@[simp] theorem State.raise_rng (e : Err) : (s.raise e).rng = RngUnit.reset s.config.crcInit := rfl
@[simp] theorem State.raise_ses (e : Err) : (s.raise e).ses = SesUnit.reset := rfl
@[simp] theorem State.raise_port (e : Err) : (s.raise e).port = s.port.tail := rfl
@[simp] theorem State.raise_answers (e : Err) : (s.raise e).answers = s.answers := rfl
@[simp] theorem State.raise_transport (e : Err) : (s.raise e).transport = s.transport := rfl
@[simp] theorem State.raise_draws (e : Err) : (s.raise e).draws = s.draws := rfl
@[simp] theorem State.raise_trace (e : Err) : (s.raise e).trace = s.trace ++ [.outcome (.err e)] := rfl

/-! ### `State.refuse` -/

@[simp] theorem State.refuse_config (r : RefusalReason) : (s.refuse r).config = s.config := rfl
@[simp] theorem State.refuse_crc (r : RefusalReason) : (s.refuse r).crc = CrcUnit.reset s.config.crcInit := rfl
@[simp] theorem State.refuse_frm (r : RefusalReason) : (s.refuse r).frm = FrmUnit.reset := rfl
@[simp] theorem State.refuse_enc (r : RefusalReason) : (s.refuse r).enc = EncUnit.reset := rfl
@[simp] theorem State.refuse_hex (r : RefusalReason) : (s.refuse r).hex = HexUnit.reset := rfl
@[simp] theorem State.refuse_rng (r : RefusalReason) : (s.refuse r).rng = RngUnit.reset s.config.crcInit := rfl
@[simp] theorem State.refuse_ses (r : RefusalReason) : (s.refuse r).ses = SesUnit.reset := rfl
@[simp] theorem State.refuse_port (r : RefusalReason) : (s.refuse r).port = s.port.tail := rfl
@[simp] theorem State.refuse_answers (r : RefusalReason) : (s.refuse r).answers = s.answers := rfl
@[simp] theorem State.refuse_transport (r : RefusalReason) : (s.refuse r).transport = s.transport := rfl
@[simp] theorem State.refuse_draws (r : RefusalReason) : (s.refuse r).draws = s.draws := rfl
@[simp] theorem State.refuse_trace (r : RefusalReason) : (s.refuse r).trace = s.trace ++ [.outcome (.refused r)] := rfl

/-! ### `State.txWrite` -/

@[simp] theorem State.txWrite_config (f : Bytes) : (s.txWrite f).config = s.config := rfl
@[simp] theorem State.txWrite_crc (f : Bytes) : (s.txWrite f).crc = s.crc := rfl
@[simp] theorem State.txWrite_frm (f : Bytes) : (s.txWrite f).frm = s.frm := rfl
@[simp] theorem State.txWrite_enc (f : Bytes) : (s.txWrite f).enc = s.enc := rfl
@[simp] theorem State.txWrite_hex (f : Bytes) : (s.txWrite f).hex = s.hex := rfl
@[simp] theorem State.txWrite_rng (f : Bytes) : (s.txWrite f).rng = s.rng := rfl
@[simp] theorem State.txWrite_ses (f : Bytes) : (s.txWrite f).ses = s.ses := rfl
@[simp] theorem State.txWrite_port (f : Bytes) : (s.txWrite f).port = s.port := rfl
@[simp] theorem State.txWrite_answers (f : Bytes) : (s.txWrite f).answers = s.answers := rfl
@[simp] theorem State.txWrite_transport (f : Bytes) : (s.txWrite f).transport = s.transport := rfl
@[simp] theorem State.txWrite_draws (f : Bytes) : (s.txWrite f).draws = s.draws := rfl
@[simp] theorem State.txWrite_trace (f : Bytes) : (s.txWrite f).trace = s.trace ++ [.txWrite f] := rfl

/-! ### `State.scanCrc` -/

@[simp] theorem State.scanCrc_config (d : Bytes) : (s.scanCrc d).config = s.config := rfl
@[simp] theorem State.scanCrc_crc (d : Bytes) : (s.scanCrc d).crc = CrcUnit.run s.config.crcInit d := rfl
@[simp] theorem State.scanCrc_frm (d : Bytes) : (s.scanCrc d).frm = s.frm := rfl
@[simp] theorem State.scanCrc_enc (d : Bytes) : (s.scanCrc d).enc = s.enc := rfl
@[simp] theorem State.scanCrc_hex (d : Bytes) : (s.scanCrc d).hex = s.hex := rfl
@[simp] theorem State.scanCrc_rng (d : Bytes) : (s.scanCrc d).rng = s.rng := rfl
@[simp] theorem State.scanCrc_ses (d : Bytes) : (s.scanCrc d).ses = s.ses := rfl
@[simp] theorem State.scanCrc_port (d : Bytes) : (s.scanCrc d).port = s.port := rfl
@[simp] theorem State.scanCrc_answers (d : Bytes) : (s.scanCrc d).answers = s.answers := rfl
@[simp] theorem State.scanCrc_transport (d : Bytes) : (s.scanCrc d).transport = s.transport := rfl
@[simp] theorem State.scanCrc_draws (d : Bytes) : (s.scanCrc d).draws = s.draws := rfl
@[simp] theorem State.scanCrc_trace (d : Bytes) : (s.scanCrc d).trace = s.trace := rfl

/-! ### `State.scanEncode` -/

@[simp] theorem State.scanEncode_config (p : Bytes) : (s.scanEncode p).config = s.config := rfl
@[simp] theorem State.scanEncode_crc (p : Bytes) : (s.scanEncode p).crc = s.crc := rfl
@[simp] theorem State.scanEncode_frm (p : Bytes) : (s.scanEncode p).frm = s.frm := rfl
@[simp] theorem State.scanEncode_enc (p : Bytes) : (s.scanEncode p).enc = EncUnit.run p := rfl
@[simp] theorem State.scanEncode_hex (p : Bytes) : (s.scanEncode p).hex = s.hex := rfl
@[simp] theorem State.scanEncode_rng (p : Bytes) : (s.scanEncode p).rng = s.rng := rfl
@[simp] theorem State.scanEncode_ses (p : Bytes) : (s.scanEncode p).ses = s.ses := rfl
@[simp] theorem State.scanEncode_port (p : Bytes) : (s.scanEncode p).port = s.port := rfl
@[simp] theorem State.scanEncode_answers (p : Bytes) : (s.scanEncode p).answers = s.answers := rfl
@[simp] theorem State.scanEncode_transport (p : Bytes) : (s.scanEncode p).transport = s.transport := rfl
@[simp] theorem State.scanEncode_draws (p : Bytes) : (s.scanEncode p).draws = s.draws := rfl
@[simp] theorem State.scanEncode_trace (p : Bytes) : (s.scanEncode p).trace = s.trace := rfl

/-! ### `State.nextLine` -/

@[simp] theorem State.nextLine_config : (s.nextLine).config = s.config := rfl
@[simp] theorem State.nextLine_crc : (s.nextLine).crc = s.crc := rfl
@[simp] theorem State.nextLine_frm : (s.nextLine).frm = s.frm := rfl
@[simp] theorem State.nextLine_enc : (s.nextLine).enc = s.enc := rfl
@[simp] theorem State.nextLine_hex : (s.nextLine).hex = { s.hex with pos := s.hex.pos + 1 } := rfl
@[simp] theorem State.nextLine_rng : (s.nextLine).rng = s.rng := rfl
@[simp] theorem State.nextLine_ses : (s.nextLine).ses = s.ses := rfl
@[simp] theorem State.nextLine_port : (s.nextLine).port = s.port := rfl
@[simp] theorem State.nextLine_answers : (s.nextLine).answers = s.answers := rfl
@[simp] theorem State.nextLine_transport : (s.nextLine).transport = s.transport := rfl
@[simp] theorem State.nextLine_draws : (s.nextLine).draws = s.draws := rfl
@[simp] theorem State.nextLine_trace : (s.nextLine).trace = s.trace := rfl

/-! ### `State.openPass` -/

@[simp] theorem State.openPass_config (c : Consumer) : (s.openPass c).config = s.config := rfl
@[simp] theorem State.openPass_crc (c : Consumer) : (s.openPass c).crc = s.crc := rfl
@[simp] theorem State.openPass_frm (c : Consumer) : (s.openPass c).frm = s.frm := rfl
@[simp] theorem State.openPass_enc (c : Consumer) : (s.openPass c).enc = s.enc := rfl
@[simp] theorem State.openPass_hex (c : Consumer) : (s.openPass c).hex = { HexUnit.reset with consumer := c } := rfl
@[simp] theorem State.openPass_rng (c : Consumer) : (s.openPass c).rng = s.rng := rfl
@[simp] theorem State.openPass_ses (c : Consumer) : (s.openPass c).ses = s.ses := rfl
@[simp] theorem State.openPass_port (c : Consumer) : (s.openPass c).port = s.port := rfl
@[simp] theorem State.openPass_answers (c : Consumer) : (s.openPass c).answers = s.answers := rfl
@[simp] theorem State.openPass_transport (c : Consumer) : (s.openPass c).transport = s.transport := rfl
@[simp] theorem State.openPass_draws (c : Consumer) : (s.openPass c).draws = s.draws := rfl
@[simp] theorem State.openPass_trace (c : Consumer) : (s.openPass c).trace = s.trace := rfl

/-! ### `State.openRange` -/

@[simp] theorem State.openRange_config (a b : Nat) : (s.openRange a b).config = s.config := rfl
@[simp] theorem State.openRange_crc (a b : Nat) : (s.openRange a b).crc = s.crc := rfl
@[simp] theorem State.openRange_frm (a b : Nat) : (s.openRange a b).frm = s.frm := rfl
@[simp] theorem State.openRange_enc (a b : Nat) : (s.openRange a b).enc = s.enc := rfl
@[simp] theorem State.openRange_hex (a b : Nat) : (s.openRange a b).hex = { HexUnit.reset with consumer := .range } := rfl
@[simp] theorem State.openRange_rng (a b : Nat) : (s.openRange a b).rng = RngUnit.load s.config.crcInit a b := rfl
@[simp] theorem State.openRange_ses (a b : Nat) : (s.openRange a b).ses = s.ses := rfl
@[simp] theorem State.openRange_port (a b : Nat) : (s.openRange a b).port = s.port := rfl
@[simp] theorem State.openRange_answers (a b : Nat) : (s.openRange a b).answers = s.answers := rfl
@[simp] theorem State.openRange_transport (a b : Nat) : (s.openRange a b).transport = s.transport := rfl
@[simp] theorem State.openRange_draws (a b : Nat) : (s.openRange a b).draws = s.draws := rfl
@[simp] theorem State.openRange_trace (a b : Nat) : (s.openRange a b).trace = s.trace := rfl

/-! ### `State.emitHost` -/

@[simp] theorem State.emitHost_config (a : Nat) (v : Byte) : (s.emitHost a v).config = s.config := by
  unfold State.emitHost State.dropAnswer; split <;> rfl
@[simp] theorem State.emitHost_crc (a : Nat) (v : Byte) : (s.emitHost a v).crc = s.crc := by
  unfold State.emitHost State.dropAnswer; split <;> rfl
@[simp] theorem State.emitHost_frm (a : Nat) (v : Byte) : (s.emitHost a v).frm = s.frm := by
  unfold State.emitHost State.dropAnswer; split <;> rfl
@[simp] theorem State.emitHost_enc (a : Nat) (v : Byte) : (s.emitHost a v).enc = s.enc := by
  unfold State.emitHost State.dropAnswer; split <;> rfl
@[simp] theorem State.emitHost_hex (a : Nat) (v : Byte) : (s.emitHost a v).hex = s.hex := by
  unfold State.emitHost State.dropAnswer; split <;> rfl
@[simp] theorem State.emitHost_rng (a : Nat) (v : Byte) : (s.emitHost a v).rng = s.rng := by
  unfold State.emitHost State.dropAnswer; split <;> rfl
@[simp] theorem State.emitHost_ses (a : Nat) (v : Byte) : (s.emitHost a v).ses = s.ses := by
  unfold State.emitHost State.dropAnswer; split <;> rfl
@[simp] theorem State.emitHost_port (a : Nat) (v : Byte) : (s.emitHost a v).port = s.port := by
  unfold State.emitHost State.dropAnswer; split <;> rfl
@[simp] theorem State.emitHost_answers (a : Nat) (v : Byte) : (s.emitHost a v).answers = s.answers.tail := by
  unfold State.emitHost State.dropAnswer; split <;> simp_all
@[simp] theorem State.emitHost_transport (a : Nat) (v : Byte) : (s.emitHost a v).transport = s.transport := by
  unfold State.emitHost State.dropAnswer; split <;> rfl
@[simp] theorem State.emitHost_trace (a : Nat) (v : Byte) : (s.emitHost a v).trace = s.trace ++ [.emit .host a v s.nextAnswer] := by
  unfold State.emitHost State.dropAnswer; split <;> rfl

/-! ### `State.dropAnswer` -/

@[simp] theorem State.dropAnswer_config : (s.dropAnswer).config = s.config := by
  unfold State.dropAnswer; split <;> rfl
@[simp] theorem State.dropAnswer_crc : (s.dropAnswer).crc = s.crc := by
  unfold State.dropAnswer; split <;> rfl
@[simp] theorem State.dropAnswer_frm : (s.dropAnswer).frm = s.frm := by
  unfold State.dropAnswer; split <;> rfl
@[simp] theorem State.dropAnswer_enc : (s.dropAnswer).enc = s.enc := by
  unfold State.dropAnswer; split <;> rfl
@[simp] theorem State.dropAnswer_hex : (s.dropAnswer).hex = s.hex := by
  unfold State.dropAnswer; split <;> rfl
@[simp] theorem State.dropAnswer_rng : (s.dropAnswer).rng = s.rng := by
  unfold State.dropAnswer; split <;> rfl
@[simp] theorem State.dropAnswer_ses : (s.dropAnswer).ses = s.ses := by
  unfold State.dropAnswer; split <;> rfl
@[simp] theorem State.dropAnswer_port : (s.dropAnswer).port = s.port := by
  unfold State.dropAnswer; split <;> rfl
@[simp] theorem State.dropAnswer_answers : (s.dropAnswer).answers = s.answers.tail := by
  unfold State.dropAnswer; split <;> simp_all
@[simp] theorem State.dropAnswer_transport : (s.dropAnswer).transport = s.transport := by
  unfold State.dropAnswer; split <;> rfl
@[simp] theorem State.dropAnswer_trace : (s.dropAnswer).trace = s.trace := by
  unfold State.dropAnswer; split <;> rfl

/-! ### `State.dropRead` -/

@[simp] theorem State.dropRead_config : (s.dropRead).config = s.config := by
  unfold State.dropRead; split <;> rfl
@[simp] theorem State.dropRead_crc : (s.dropRead).crc = s.crc := by
  unfold State.dropRead; split <;> rfl
@[simp] theorem State.dropRead_frm : (s.dropRead).frm = s.frm := by
  unfold State.dropRead; split <;> rfl
@[simp] theorem State.dropRead_enc : (s.dropRead).enc = s.enc := by
  unfold State.dropRead; split <;> rfl
@[simp] theorem State.dropRead_hex : (s.dropRead).hex = s.hex := by
  unfold State.dropRead; split <;> rfl
@[simp] theorem State.dropRead_rng : (s.dropRead).rng = s.rng := by
  unfold State.dropRead; split <;> rfl
@[simp] theorem State.dropRead_ses : (s.dropRead).ses = s.ses := by
  unfold State.dropRead; split <;> rfl
@[simp] theorem State.dropRead_port : (s.dropRead).port = s.port := by
  unfold State.dropRead; split <;> rfl
@[simp] theorem State.dropRead_answers : (s.dropRead).answers = s.answers := by
  unfold State.dropRead; split <;> rfl
@[simp] theorem State.dropRead_transport : (s.dropRead).transport = s.transport.tail := by
  unfold State.dropRead; split <;> simp_all
@[simp] theorem State.dropRead_trace : (s.dropRead).trace = s.trace := by
  unfold State.dropRead; split <;> rfl

/-! ### `State.txRead` -/

@[simp] theorem State.txRead_config : (s.txRead).config = s.config := by
  unfold State.txRead State.dropRead; split <;> rfl
@[simp] theorem State.txRead_crc : (s.txRead).crc = s.crc := by
  unfold State.txRead State.dropRead; split <;> rfl
@[simp] theorem State.txRead_frm : (s.txRead).frm = s.frm := by
  unfold State.txRead State.dropRead; split <;> rfl
@[simp] theorem State.txRead_enc : (s.txRead).enc = s.enc := by
  unfold State.txRead State.dropRead; split <;> rfl
@[simp] theorem State.txRead_hex : (s.txRead).hex = s.hex := by
  unfold State.txRead State.dropRead; split <;> rfl
@[simp] theorem State.txRead_rng : (s.txRead).rng = s.rng := by
  unfold State.txRead State.dropRead; split <;> rfl
@[simp] theorem State.txRead_ses : (s.txRead).ses = { s.ses with rx := s.nextRead.bytes.take s.config.readMax, timedOut := s.nextRead.timedOut } := by
  unfold State.txRead State.dropRead; split <;> rfl
@[simp] theorem State.txRead_port : (s.txRead).port = s.port := by
  unfold State.txRead State.dropRead; split <;> rfl
@[simp] theorem State.txRead_answers : (s.txRead).answers = s.answers := by
  unfold State.txRead State.dropRead; split <;> rfl
@[simp] theorem State.txRead_transport : (s.txRead).transport = s.transport.tail := by
  unfold State.txRead State.dropRead; split <;> simp_all
@[simp] theorem State.txRead_trace : (s.txRead).trace = s.trace ++ [.txRead s.config.readMax s.config.timeoutMs (s.nextRead.bytes.take s.config.readMax) s.nextRead.timedOut] := by
  unfold State.txRead State.dropRead; split <;> rfl

end Sys2Proof.Machine
end

