-- ==== Sys2Proof/Laws/Crc.lean ====
section
/-! SUPPORT. What the CRC engine's loops compute, said once. -/

namespace Sys2Proof.Machine

open Sys2Proof.Config

theorem crcCompute_nil (init : U16) : crcCompute init [] = init := rfl

theorem crcCompute_cons (init : U16) (b : Byte) (d : Bytes) :
    crcCompute init (b :: d) = crcCompute (crcStep b init) d := rfl

theorem crcCompute_append (init : U16) (a c : Bytes) :
    crcCompute init (a ++ c) = crcCompute (crcCompute init a) c := by
  simp [crcCompute, List.foldl_append]

/-- CRC_COMPUTE's loop over its registers is the fold of the byte step (R104). -/
theorem foldl_feed (d : Bytes) (u : CrcUnit) :
    d.foldl CrcUnit.feed u = { acc := crcCompute u.acc d, pos := u.pos + d.length } := by
  induction d generalizing u with
  | nil => simp [crcCompute]
  | cons b d ih => simp [ih, CrcUnit.feed, crcCompute]; omega

@[simp] theorem CrcUnit.run_acc (init : U16) (d : Bytes) : (CrcUnit.run init d).acc = crcCompute init d := by
  simp [CrcUnit.run, foldl_feed, CrcUnit.reset]

@[simp] theorem CrcUnit.run_pos (init : U16) (d : Bytes) : (CrcUnit.run init d).pos = d.length := by
  simp [CrcUnit.run, foldl_feed, CrcUnit.reset]

/-- Padding is the CRC over that many unwritten bytes (R53, R106, R213). -/
theorem crcPad_eq_crcCompute (n : Nat) (st : U16) : crcPad n st = crcCompute st (List.replicate n erased) := by
  induction n generalizing st with
  | zero => rfl
  | succ n ih => simp [crcPad, ih, List.replicate_succ, crcCompute_cons]

end Sys2Proof.Machine
end

