-- ==== Sys2Proof/Laws/HexLine.lean ====
section
/-! SUPPORT. What the line parser does, said once: stripping, hex digits, and a line that is a colon and digit pairs. -/

namespace Sys2Proof.Machine

open Sys2Proof.Config

/-! ### Digits (R83) -/

theorem isHexDigit_not_blank (c : Byte) (h : isHexDigit c = true) : isBlank c = false ∧ c ≠ hash ∧ c ≠ colon := by
  revert h c; decide

theorem digitChar_isHexDigit : ∀ n, n < 16 → isHexDigit (digitChar n) = true := by decide

theorem digitValue_digitChar : ∀ n, n < 16 → digitValue (digitChar n) = n := by decide

theorem hexPair_isHexDigit (b : Byte) : ∀ c ∈ hexPair b, isHexDigit c = true := by
  have := b.isLt
  intro c hc
  simp only [hexPair, List.mem_cons, List.not_mem_nil, or_false] at hc
  rcases hc with rfl | rfl <;> exact digitChar_isHexDigit _ (by omega)

theorem hexByte_hexPair (b : Byte) : hexByte (digitChar (b.toNat / 16)) (digitChar (b.toNat % 16)) = b := by
  have := b.isLt
  rw [hexByte, digitValue_digitChar _ (by omega), digitValue_digitChar _ (by omega), Nat.div_add_mod]
  simp

/-- Digit pairs as the bytes they stand for (R143). -/
theorem hexBytes_flatMap (ds : List (Byte × Byte)) :
    hexBytes (ds.flatMap fun d => [d.1, d.2]) = ds.map fun d => hexByte d.1 d.2 := by
  induction ds with
  | nil => rfl
  | cons d ds ih => simpa [hexBytes] using ih

/-- Digits written by the encoder, as a list of pairs. -/
def digitPairs (bs : Bytes) : List (Byte × Byte) := bs.map fun b => (digitChar (b.toNat / 16), digitChar (b.toNat % 16))

theorem hexText_eq (bs : Bytes) : hexText bs = (digitPairs bs).flatMap fun d => [d.1, d.2] := by
  simp only [hexText, digitPairs, List.flatMap_map]; rfl

theorem digitPairs_isHexDigit (bs : Bytes) : ∀ d ∈ digitPairs bs, isHexDigit d.1 = true ∧ isHexDigit d.2 = true := by
  intro d hd
  obtain ⟨b, _, rfl⟩ := List.mem_map.1 hd
  have := b.isLt
  exact ⟨digitChar_isHexDigit _ (by omega), digitChar_isHexDigit _ (by omega)⟩

theorem digitPairs_bytes (bs : Bytes) : (digitPairs bs).map (fun d => hexByte d.1 d.2) = bs := by
  simp [digitPairs, Function.comp_def, hexByte_hexPair]

/-! ### Stripping (R141) -/

theorem dropWhile_blank {pre : Text} (h : ∀ c ∈ pre, isBlank c = true) (t : Text) :
    (pre ++ t).dropWhile isBlank = t.dropWhile isBlank := by
  induction pre with
  | nil => rfl
  | cons c pre ih =>
    simp [h c (by simp)]
    exact ih fun x hx => h x (by simp [hx])

theorem dropWhile_head {t : Text} (h : ∀ c, t.head? = some c → isBlank c = false) : t.dropWhile isBlank = t := by
  cases t with
  | nil => rfl
  | cons c t => simp [h c rfl]

/-- A line of white space alone strips to nothing. -/
theorem strip_blank {pre : Text} (h : ∀ c ∈ pre, isBlank c = true) : strip pre = [] := by
  have h0 : pre.dropWhile isBlank = [] := by simpa using dropWhile_blank h []
  simp [strip, h0]

/-- White space around a text that neither begins nor ends with it is stripped, and nothing else. -/
theorem strip_around {pre t post : Text} (hpre : ∀ c ∈ pre, isBlank c = true) (hpost : ∀ c ∈ post, isBlank c = true)
    (hh : ∀ c, t.head? = some c → isBlank c = false) (hl : ∀ c, t.getLast? = some c → isBlank c = false) :
    strip (pre ++ t ++ post) = t := by
  by_cases ht : t = []
  · subst ht
    exact strip_blank (by simpa [or_imp, forall_and] using ⟨hpre, hpost⟩)
  · have h1 : (t ++ post).dropWhile isBlank = t ++ post := dropWhile_head (by
      intro c hc; exact hh c (by simpa [List.head?_append, List.head?_eq_some_head ht] using hc))
    rw [strip, List.append_assoc, dropWhile_blank hpre, h1, List.reverse_append,
      dropWhile_blank (by simpa using hpost), dropWhile_head (by simpa using hl), List.reverse_reverse]

/-- A text whose first character is not white space keeps it when stripped. -/
theorem strip_head {pre t : Text} {c : Byte} (hpre : ∀ c ∈ pre, isBlank c = true) (hc : isBlank c = false) :
    ∃ t', strip (pre ++ c :: t) = c :: t' := by
  have h2 : ∀ (u : Text), ∃ u', (u ++ [c]).dropWhile isBlank = u' ++ [c] := by
    intro u
    induction u with
    | nil => exact ⟨[], by simp [hc]⟩
    | cons x u ih =>
      by_cases hx : isBlank x = true
      · simpa [hx] using ih
      · exact ⟨x :: u, by simp [hx]⟩
  rw [strip, dropWhile_blank hpre]
  obtain ⟨u', hu⟩ := h2 t.reverse
  exact ⟨u'.reverse, by simp [hc, hu]⟩

/-! ### A colon and digit pairs (R84, R142 to R144) -/

/-- A colon and digit pairs has neither white space at its ends nor a comment mark at its start. -/
theorem colon_digits_ends {ds : List (Byte × Byte)} (h : ∀ d ∈ ds, isHexDigit d.1 = true ∧ isHexDigit d.2 = true) :
    ∀ c, (colon :: ds.flatMap fun d => [d.1, d.2]).getLast? = some c → isBlank c = false := by
  intro c hc
  have hm := List.mem_of_getLast? hc
  simp only [List.mem_cons, List.mem_flatMap, List.not_mem_nil, or_false] at hm
  rcases hm with rfl | ⟨d, hd, rfl | rfl⟩
  · decide
  · exact (isHexDigit_not_blank _ (h d hd).1).1
  · exact (isHexDigit_not_blank _ (h d hd).2).1

/-- What the parser answers for a colon and the digit pairs of `n + 5` bytes, white space around it (R140 to R144). -/
theorem hexLineParse_digits {pre post : Text} {ds : List (Byte × Byte)} (hpre : ∀ c ∈ pre, isBlank c = true)
    (hpost : ∀ c ∈ post, isBlank c = true) (h : ∀ d ∈ ds, isHexDigit d.1 = true ∧ isHexDigit d.2 = true)
    (hlen : ds.length = ((ds.map fun d => hexByte d.1 d.2).getD 0 0#8).toNat + 5) :
    strip (pre ++ (colon :: ds.flatMap fun d => [d.1, d.2]) ++ post) = (colon :: ds.flatMap fun d => [d.1, d.2]) ∧
    lineBytes (colon :: ds.flatMap fun d => [d.1, d.2]) = ds.map (fun d => hexByte d.1 d.2) ∧
    hexLineParse (pre ++ (colon :: ds.flatMap fun d => [d.1, d.2]) ++ post) =
      if byteSum (ds.map fun d => hexByte d.1 d.2) % 256 ≠ 0 then .error .checksum
      else .ok (.record (recordOf (ds.map fun d => hexByte d.1 d.2))) := by
  have hs : strip (pre ++ (colon :: ds.flatMap fun d => [d.1, d.2]) ++ post) = (colon :: ds.flatMap fun d => [d.1, d.2]) :=
    strip_around hpre hpost (by intro c hc; cases hc; decide) (colon_digits_ends h)
  have hb : lineBytes (colon :: ds.flatMap fun d => [d.1, d.2]) = ds.map (fun d => hexByte d.1 d.2) := by
    simp [lineBytes, hexBytes_flatMap]
  refine ⟨hs, hb, ?_⟩
  have hl2 : (ds.flatMap fun d => [d.1, d.2]).length = 2 * ds.length := by
    clear * -
    induction ds with
    | nil => rfl
    | cons d ds ih => simp [ih]; omega
  have hc : lineCheck (colon :: ds.flatMap fun d => [d.1, d.2]) = none := by
    have hcount : lineCount (colon :: ds.flatMap fun d => [d.1, d.2]) =
        ((ds.map fun d => hexByte d.1 d.2).getD 0 0#8).toNat := by
      cases ds with
      | nil => simp at hlen
      | cons d ds => simp [lineCount]
    have hany : ((colon :: ds.flatMap fun d => [d.1, d.2]).drop 1).any (fun c => !isHexDigit c) = false := by
      simp only [List.drop_succ_cons, List.drop_zero, List.any_eq_false, List.mem_flatMap, List.mem_cons, List.not_mem_nil,
        or_false]
      rintro c ⟨d, hd, rfl | rfl⟩
      · simp [(h d hd).1]
      · simp [(h d hd).2]
    rw [lineCheck, hany, hcount, if_neg (by simp [hl2, hexMinLine]; omega), if_neg (by simp),
      if_neg (by simp), if_neg (by rw [List.length_cons, hl2, hlen, hexMinLine]; omega)]
  rw [hexLineParse, hs]
  simp only [hc, hb]
  rw [if_neg (by simp [colon, hash])]

/-- What the parser answers for a line the encoder writes (R84, R85, R99): its own fields, its checksum right. -/
theorem hexLineParse_encodeRecord {pre post : Text} (tt : Byte) (address : U16) (data : Bytes)
    (hpre : ∀ c ∈ pre, isBlank c = true) (hpost : ∀ c ∈ post, isBlank c = true) (hd : data.length ≤ 255) :
    hexLineParse (pre ++ encodeRecord tt address data ++ post) =
      .ok (.record
        { byteCount := BitVec.ofNat 8 data.length
          address := address
          recordType := tt
          data := data
          checksum := checksumOf (recordHead tt address data) }) ∧
    lineBytes (strip (pre ++ encodeRecord tt address data ++ post)) =
      recordHead tt address data ++ [checksumOf (recordHead tt address data)] ∧
    byteSum (recordHead tt address data ++ [checksumOf (recordHead tt address data)]) % 256 = 0 := by
  have hn : data.length % 256 = data.length := Nat.mod_eq_of_lt (by omega)
  have hsum : byteSum (recordHead tt address data ++ [checksumOf (recordHead tt address data)]) % 256 = 0 := by
    simp [byteSum, checksumOf]; omega
  obtain ⟨h1, h2, h3⟩ := hexLineParse_digits (pre := pre) (post := post)
    (ds := digitPairs (recordHead tt address data ++ [checksumOf (recordHead tt address data)])) hpre hpost
    (digitPairs_isHexDigit _) (by
      rw [digitPairs_bytes]; simp [digitPairs, recordHead, be16, hn])
  rw [digitPairs_bytes] at h2 h3
  rw [← hexText_eq] at h1 h2 h3
  have he : encodeRecord tt address data =
      colon :: hexText (recordHead tt address data ++ [checksumOf (recordHead tt address data)]) := rfl
  rw [he, h1, h2, h3, if_neg (by simp [hsum])]
  refine ⟨?_, rfl, hsum⟩
  simp only [Except.ok.injEq, Parsed.record.injEq, recordOf, Record.mk.injEq]
  refine ⟨by simp [recordHead], ?_, by simp [recordHead, be16], by simp [recordHead, be16, hn], ?_⟩
  · simp only [recordHead, be16, List.cons_append, List.getD_cons_succ, List.getD_cons_zero, ofBe16]
    ext i hi
    simp
    by_cases h : i < 8
    · simp [h, BitVec.getLsbD_eq_getElem, hi]
    · simp [h, hi]; rw [show 8 + (i - 8) = i by omega]; simp [show i - 8 < 8 by omega, BitVec.getLsbD_eq_getElem, hi]
  · simp [recordHead, be16, hn, List.getD_eq_getElem?_getD, Nat.add_comm 4]

/-! ### Any line that parses to a record -/

theorem hexBytes_length (t : Text) : (hexBytes t).length = t.length / 2 := by
  induction t using hexBytes.induct with
  | case1 c0 c1 rest ih => simp [hexBytes, ih]; omega
  | case2 t h =>
    rw [hexBytes]
    · match t with
      | [] => rfl
      | [a] => simp
      | a :: b :: c => exact absurd rfl (h a b c)
    · exact h

/-- A parsed record is the fields of its line's bytes, and there are exactly `byteCount + 5` of them (R142, R143). -/
theorem hexLineParse_record {line : Text} {r : Record} (h : hexLineParse line = .ok (.record r)) :
    r = recordOf (lineBytes (strip line)) ∧ (lineBytes (strip line)).length = r.byteCount.toNat + 5 ∧
    r.data.length = r.byteCount.toNat := by
  unfold hexLineParse at h
  simp only [] at h
  split at h
  · simp at h
  · split at h
    · simp at h
    · rename_i hc
      split at h
      · simp at h
      · simp at h
        subst h
        unfold lineCheck at hc
        generalize hr : lineBytes (strip line) = raw
        generalize strip line = t at *
        split_ifs at hc with h1 h2 h3 h4
        have hl : raw.length = lineCount t + 5 := by
          rw [← hr, lineBytes, hexBytes_length]; simp [hexMinLine] at *; omega
        have h0 : (raw.getD 0 0#8).toNat = lineCount t := by
          rw [← hr]
          match t with
          | [] => simp [hexMinLine] at h1
          | [_] => simp [hexMinLine] at h1
          | [_, _] => simp [hexMinLine] at h1
          | a :: b :: c :: d => simp [lineBytes, hexBytes, lineCount]
        refine ⟨rfl, by simp [recordOf, ← h0] at *; omega, ?_⟩
        simp only [recordOf, List.length_take, List.length_drop]
        omega

end Sys2Proof.Machine
end

