-- ==== Sys2Proof/Laws/Decode.lean ====
section
/-! SUPPORT. What the decoder can answer, said once per level. -/

namespace Sys2Proof

open Sys2Proof.Machine Sys2Proof.Config

/-- The instructions of the operation port (R97). -/
def Instr.isOperation : Instr → Bool
  | .crcStep _ _ | .crcCompute _ | .frameEncode _ | .frameDecode _ | .hexLineParse _ | .hexFileParse _ | .requestEncode _
  | .responseDecode _ _ | .readBootInfo | .eraseFlash | .programFlash _ | .readCrc _ _ | .jumpToApp | .rangeCrc _ _ _
  | .opselUnknown _ => true
  | _ => false

/-- The operation port decodes to operations only (R97). -/
theorem decodePort_isOperation {p : Presentation} {i : Instr} (h : decodePort p = .ok i) : i.isOperation = true := by
  obtain ⟨op, ops⟩ := p
  unfold decodePort at h
  split at h <;> cases ops <;> simp at h <;> subst h <;> rfl

/-- A record line the encoder writes decodes to the instruction of its type (R84, R86). -/
theorem decode_encodeRecord (tt : Byte) (address : U16) (data : Bytes) (h : dataFits data = true) :
    decode (.record (encodeRecord tt address data)) =
      .ok (decodeRecord
        { byteCount := BitVec.ofNat 8 data.length
          address := address
          recordType := tt
          data := data
          checksum := checksumOf (recordHead tt address data) }) := by
  have := (hexLineParse_encodeRecord (pre := []) (post := []) tt address data (by simp) (by simp) (of_decide_eq_true h)).1
  simp at this
  simp [decode, decodeLine, this]

/-- Four little-endian bytes read back as their value (R54, R75). -/
theorem ofLe32_le32 (v : U32) :
    ofLe32 (v.extractLsb' 0 8) (v.extractLsb' 8 8) (v.extractLsb' 16 8) (v.extractLsb' 24 8) = v := by
  unfold ofLe32
  ext i hi; simp; interval_cases i <;> simp

/-- The block steps by `exec` of the instruction decoded from the presentation at the head of its port (R29, R97). -/
theorem step_port {s : State} {p : Presentation} {ps : List Presentation} {i : Instr} (h : s.port = p :: ps)
    (hd : decodePort p = .ok i) : step s = exec i s := by simp [step, State.fetch, h, hd]

theorem step_idle {s : State} (h : s.port = []) : step s = .next s := by simp [step, State.fetch, h]

/-- What a step is: idle, the run of an operation, or the fault of mistyped operands. -/
theorem step_cases (s : State) :
    (s.port = [] ∧ step s = .next s) ∨
    (∃ p ps i, s.port = p :: ps ∧ decodePort p = .ok i ∧ i.isOperation = true ∧ step s = exec i s) ∨
    step s = .fault .mistypedOperands := by
  cases h : s.port with
  | nil => exact .inl ⟨rfl, step_idle h⟩
  | cons p ps =>
    cases hd : decodePort p with
    | ok i => exact .inr (.inl ⟨p, ps, i, rfl, hd, decodePort_isOperation hd, step_port h hd⟩)
    | error e => exact .inr (.inr (by simp [step, State.fetch, h, hd]))

end Sys2Proof
end

