-- ==== Sys2Proof/Laws/Frame.lean ====
section
/-! SUPPORT. What the frame codec's loops compute, said once: the encoder's output is the stuffed payload between START and END;
the decoder takes each byte of a frame's interior, bare or escaped, to its output, and END to the remainder. -/

namespace Sys2Proof.Machine

open Sys2Proof.Config

/-! ### Encoder -/

/-- The encoder's loop appends the stuffed bytes (R120). -/
theorem foldl_put (p : Bytes) (e : EncUnit) :
    p.foldl EncUnit.put e = { pos := e.pos + p.length, out := e.out ++ stuffed p } := by
  induction p generalizing e with
  | nil => simp [stuffed]
  | cons b p ih =>
    rw [List.foldl_cons, ih]
    simp only [stuffed, List.flatMap_cons, EncUnit.put, EncUnit.mk.injEq, List.length_cons]
    refine ⟨by omega, ?_⟩
    split <;> simp

/-- The encoder's registers at its end (R120). -/
theorem EncUnit.run_eq (p : Bytes) :
    EncUnit.run p = { pos := p.length, out := startByte :: stuffed p ++ [endByte] } := by
  simp [EncUnit.run, foldl_put, EncUnit.start]

theorem frameEncode_eq (p : Bytes) : frameEncode p = startByte :: stuffed p ++ [endByte] := by
  simp [frameEncode, EncUnit.run_eq]

theorem isSpecial_iff (b : Byte) : isSpecial b = true ↔ b = startByte ∨ b = endByte ∨ b = escapeByte := by
  simp [isSpecial, or_assoc]

/-! ### Decoder -/

/-- In phase Done no byte is consumed (R124). -/
theorem FrmUnit.scan_done (cs : Bytes) {f : FrmUnit} (h : f.phase = .done) : FrmUnit.scan cs f = .ok f := by
  cases cs <;> simp [FrmUnit.scan, h, FrmUnit.exhausted]

/-- Inside a frame an ESCAPE that is not escaped is a prefix (R124). -/
theorem FrmUnit.take_prefix {f : FrmUnit} (hp : f.phase = .inFrame) (he : f.escaping = false) :
    f.take escapeByte = .ok { f with escaping := true, pos := f.pos + 1 } := by
  simp [FrmUnit.take, FrmUnit.takeEscape, hp, he, escapeByte, startByte, endByte, FrmUnit.advance, FrmUnit.setEscaping]

/-- Inside a frame an escaped byte is a literal, whichever it is (R124). -/
theorem FrmUnit.take_escaped {f : FrmUnit} (hp : f.phase = .inFrame) (he : f.escaping = true) (v : Byte) :
    f.take v = .ok { f with escaping := false, out := f.out ++ [v], pos := f.pos + 1 } := by
  unfold FrmUnit.take
  split_ifs with h1 h2 h3 <;>
    simp_all [FrmUnit.takeStart, FrmUnit.takeEnd, FrmUnit.takeEscape, FrmUnit.takeLiteral, FrmUnit.copy, FrmUnit.advance,
      FrmUnit.clearEscaping]

/-- Inside a frame a bare byte other than END and ESCAPE is a literal (R124). -/
theorem FrmUnit.take_bare {f : FrmUnit} (hp : f.phase = .inFrame) (he : f.escaping = false) {v : Byte} (h1 : v ≠ endByte)
    (h2 : v ≠ escapeByte) : f.take v = .ok { f with out := f.out ++ [v], pos := f.pos + 1 } := by
  unfold FrmUnit.take
  split_ifs with h <;>
    simp_all [FrmUnit.takeStart, FrmUnit.takeLiteral, FrmUnit.copy, FrmUnit.advance, FrmUnit.clearEscaping]

/-- The decoder's scan over the interior of a frame (R70, R124). -/
theorem FrmUnit.scan_render (xs : List FrameByte) (h : ∀ x ∈ xs, x.ok = true) (f : FrmUnit) (hp : f.phase = .inFrame)
    (he : f.escaping = false) (t : Bytes) :
    FrmUnit.scan (renderFrame xs ++ t) f =
      FrmUnit.scan t { f with out := f.out ++ xs.map FrameByte.value, pos := f.pos + (renderFrame xs).length } := by
  induction xs generalizing f with
  | nil => simp [renderFrame]
  | cons x xs ih =>
    have hx := h x (by simp)
    have hxs : ∀ y ∈ xs, y.ok = true := fun y hy => h y (by simp [hy])
    obtain ⟨esc, v⟩ := x
    cases esc with
    | true =>
      simp only [renderFrame, List.flatMap_cons, if_true, List.cons_append, List.nil_append] at *
      rw [FrmUnit.scan, if_neg (by simp [hp]), FrmUnit.take_prefix hp he]
      simp only []
      rw [FrmUnit.scan, if_neg (by simp [hp]), FrmUnit.take_escaped (by simp [hp]) rfl]
      simp only []
      rw [ih hxs _ (by simp [hp]) rfl]
      simp [he]; congr 2; omega
    | false =>
      simp [FrameByte.ok] at hx
      simp only [renderFrame, List.flatMap_cons, List.cons_append, List.nil_append, Bool.false_eq_true,
        if_false] at *
      rw [FrmUnit.scan, if_neg (by simp [hp]), FrmUnit.take_bare hp he hx.1 hx.2]
      simp only []
      rw [ih hxs _ (by simp [hp]) (by simp [he])]
      simp; congr 2; omega

/-- The leading START opens the frame (R124). -/
theorem FrmUnit.run_start (t : Bytes) :
    FrmUnit.run (startByte :: t) =
      FrmUnit.scan t { FrmUnit.reset with input := startByte :: t, phase := .inFrame, pos := 1 } := by
  simp [FrmUnit.run, FrmUnit.scan, FrmUnit.load, FrmUnit.reset, FrmUnit.take, FrmUnit.takeStart, FrmUnit.advance]

/-- A stuffed payload is a frame interior in which exactly the special bytes are escaped (R120, R122). -/
theorem stuffed_eq_render (p : Bytes) : stuffed p = renderFrame (p.map fun b => ⟨isSpecial b, b⟩) := by
  simp [stuffed, renderFrame, List.flatMap_map]

theorem stuffed_bytes_ok (p : Bytes) : ∀ x ∈ p.map (fun b => (⟨isSpecial b, b⟩ : FrameByte)), x.ok = true := by
  intro x hx
  obtain ⟨b, _, rfl⟩ := List.mem_map.1 hx
  by_cases h : isSpecial b = true
  · simp [FrameByte.ok, h]
  · simp [isSpecial] at h; simp [FrameByte.ok, h]

/-- What the decoder does with START, a frame interior and END (R124, R125). -/
theorem FrmUnit.run_frame (xs : List FrameByte) (h : ∀ x ∈ xs, x.ok = true) (t : Bytes) :
    ∃ f, FrmUnit.run (startByte :: renderFrame xs ++ endByte :: t) = .ok f ∧ f.out = xs.map FrameByte.value ∧ f.rem = t := by
  rw [List.cons_append, FrmUnit.run_start, FrmUnit.scan_render xs h _ rfl rfl]
  simp only [FrmUnit.scan, FrmUnit.take, FrmUnit.takeEnd, endByte, startByte, FrmUnit.reset]
  simp [FrmUnit.advance]
  rw [FrmUnit.scan_done _ rfl]
  refine ⟨_, rfl, rfl, ?_⟩
  simp
  rw [Nat.add_comm 1, List.drop_append]
  simp

/-- What the decoder does with an encoded payload (R122). -/
theorem FrmUnit.run_stuffed (p t : Bytes) :
    ∃ f, FrmUnit.run (startByte :: stuffed p ++ endByte :: t) = .ok f ∧ f.out = p ∧ f.rem = t := by
  rw [stuffed_eq_render]
  simpa [Function.comp_def] using FrmUnit.run_frame _ (stuffed_bytes_ok p) t

end Sys2Proof.Machine
end

