-- ==== Sys2Proof/Laws/Memory.lean ====
section
/-! SUPPORT. The image space (R50 to R53): every write keeps the canonical form; a byte written reads back; every other byte reads
as before; so every state's image is in the canonical form. -/

namespace Sys2Proof.Machine

open Sys2Proof.Config

theorem Memory.wfFrom_mono {lo lo' : Nat} {m : Memory} (h : lo' ≤ lo) (hm : Memory.wfFrom lo m = true) :
    Memory.wfFrom lo' m = true := by
  cases m with
  | nil => rfl
  | cons c rest => simp [Memory.wfFrom] at hm ⊢; exact ⟨⟨by omega, hm.1.2⟩, hm.2⟩

/-- Below its first address a memory in canonical form reads as unwritten. -/
theorem Memory.read_below {lo a : Nat} {m : Memory} (hm : Memory.wfFrom lo m = true) (h : a < lo) : m.read a = erased := by
  induction m generalizing lo with
  | nil => rfl
  | cons c rest ih =>
    simp [Memory.wfFrom] at hm
    have hne : a ≠ c.1 := by omega
    simp [Memory.read, hne]
    exact ih hm.2 (by omega)

theorem Memory.write_wfFrom {lo a : Nat} {v : Byte} {m : Memory} (hm : Memory.wfFrom lo m = true) (h : lo ≤ a) :
    Memory.wfFrom lo (m.write a v) = true := by
  induction m generalizing lo with
  | nil => by_cases hv : v = erased <;> simp [Memory.write, Memory.wfFrom, hv, h]
  | cons c rest ih =>
    obtain ⟨b, w⟩ := c
    simp [Memory.wfFrom] at hm
    obtain ⟨⟨hlo, hw⟩, hrest⟩ := hm
    unfold Memory.write
    by_cases h1 : a < b
    · by_cases hv : v = erased <;> simp [h1, hv, Memory.wfFrom, hlo, hw, hrest, h]
    · by_cases h2 : a = b
      · subst h2
        by_cases hv : v = erased <;> simp [hv, Memory.wfFrom, hlo, hrest]
        exact Memory.wfFrom_mono (by omega) hrest
      · simp [h1, h2, Memory.wfFrom, hlo, hw]
        exact ih hrest (by omega)

theorem Memory.write_wf {m : Memory} (hm : m.wf = true) (a : Nat) (v : Byte) : (m.write a v).wf = true :=
  Memory.write_wfFrom hm (Nat.zero_le a)

theorem Memory.read_write_same {lo a : Nat} {v : Byte} {m : Memory} (hm : Memory.wfFrom lo m = true) :
    (m.write a v).read a = v := by
  induction m generalizing lo with
  | nil => by_cases hv : v = erased <;> simp [Memory.write, Memory.read, hv]
  | cons c rest ih =>
    obtain ⟨b, w⟩ := c
    simp [Memory.wfFrom] at hm
    obtain ⟨⟨hlo, hw⟩, hrest⟩ := hm
    unfold Memory.write
    by_cases h1 : a < b
    · have hb : a ≠ b := by omega
      by_cases hv : v = erased
      · simp [h1, hv, Memory.read, hb, Memory.read_below hrest (a := a) (by omega)]
      · simp [h1, hv, Memory.read]
    · by_cases h2 : a = b
      · subst h2
        by_cases hv : v = erased
        · simp [hv, Memory.read_below hrest (a := a) (by omega)]
        · simp [hv, Memory.read]
      · simp [h1, h2, Memory.read]
        exact ih hrest

theorem Memory.read_write_other {a b : Nat} {v : Byte} {m : Memory} (h : b ≠ a) : (m.write a v).read b = m.read b := by
  induction m with
  | nil => by_cases hv : v = erased <;> simp [Memory.write, Memory.read, hv, h]
  | cons c rest ih =>
    obtain ⟨b', w⟩ := c
    unfold Memory.write
    by_cases h1 : a < b'
    · by_cases hv : v = erased <;> simp [h1, hv, Memory.read, h]
    · by_cases h2 : a = b'
      · subst h2; by_cases hv : v = erased <;> simp [hv, Memory.read, h]
      · simp [h1, h2, Memory.read, ih]

theorem foldl_write_wf {ws : List (Nat × Byte)} {m : Memory} (hm : m.wf = true) :
    Memory.wf (ws.foldl (fun m w => Memory.write m w.1 w.2) m) = true := by
  induction ws generalizing m with
  | nil => exact hm
  | cons w ws ih => exact ih (Memory.write_wf hm w.1 w.2)

theorem imageOf_wf (ws : List (Nat × Byte)) : (imageOf ws).wf = true := foldl_write_wf rfl

/-- The image of every state is in the canonical form. -/
theorem State.image_wf (s : State) : s.image.wf = true := imageOf_wf _

theorem imageOf_append (ws : List (Nat × Byte)) (w : Nat × Byte) : imageOf (ws ++ [w]) = (imageOf ws).write w.1 w.2 := by
  simp [imageOf, List.foldl_append]

/-- Reading an image after one more emission (R52: the later write wins). -/
theorem imageOf_read_append (ws : List (Nat × Byte)) (w : Nat × Byte) (a : Nat) :
    (imageOf (ws ++ [w])).read a = if a = w.1 then w.2 else (imageOf ws).read a := by
  rw [imageOf_append]
  by_cases h : a = w.1
  · subst h; simp [Memory.read_write_same (imageOf_wf ws)]
  · simp [h, Memory.read_write_other h]

@[simp] theorem emissionsTo_nil (c : Consumer) : emissionsTo c [] = [] := rfl

@[simp] theorem emissionsTo_append (c : Consumer) (es fs : List Event) :
    emissionsTo c (es ++ fs) = emissionsTo c es ++ emissionsTo c fs := by simp [emissionsTo]

@[simp] theorem emissionsTo_outcome (c : Consumer) (r : Result) (es : List Event) :
    emissionsTo c (.outcome r :: es) = emissionsTo c es := rfl

@[simp] theorem emissionsTo_txWrite (c : Consumer) (f : Bytes) (es : List Event) :
    emissionsTo c (.txWrite f :: es) = emissionsTo c es := rfl

@[simp] theorem emissionsTo_txRead (c : Consumer) (n t : Nat) (r : Bytes) (b : Bool) (es : List Event) :
    emissionsTo c (.txRead n t r b :: es) = emissionsTo c es := rfl

@[simp] theorem emissionsTo_emit (c c' : Consumer) (a : Nat) (v : Byte) (x : EmitAnswer) (es : List Event) :
    emissionsTo c (.emit c' a v x :: es) = (if c' = c then [(a, v)] else []) ++ emissionsTo c es := by
  by_cases h : c' = c <;> simp [emissionsTo, Event.emission, h]

/-- Emissions elsewhere leave a byte of the image as it was (R52). -/
theorem imageOf_read_append_other {ws es : List (Nat × Byte)} {a : Nat} (h : ∀ w ∈ es, w.1 ≠ a) :
    (imageOf (ws ++ es)).read a = (imageOf ws).read a := by
  induction es using List.reverseRecOn with
  | nil => simp
  | append_singleton l v ih =>
    rw [← List.append_assoc, imageOf_read_append, if_neg (by have := h v (by simp); exact fun h => this h.symm),
      ih (fun w hw => h w (by simp [hw]))]

@[simp] theorem State.image_finish (s : State) (r : Result) : (s.finish r).image = s.image := by simp [State.image]

end Sys2Proof.Machine
end

