-- ==== Sys2Proof/Laws/Ops.lean ====
section
/-! SUPPORT. The shared operations on the state: ending an operation makes no difference between states that differ only in unit
registers, and what the answering ports can do. -/

namespace Sys2Proof.Machine

open Sys2Proof.Config

/-! ### Ending an operation discards the unit registers (R34, R236) -/

section
variable (s : State) (r : Result)

@[simp] theorem State.finish_clearUnits : s.clearUnits.finish r = s.finish r := rfl
@[simp] theorem State.finish_begin : s.begin.finish r = s.finish r := rfl
@[simp] theorem State.finish_scanCrc (d : Bytes) : (s.scanCrc d).finish r = s.finish r := rfl
@[simp] theorem State.finish_scanEncode (p : Bytes) : (s.scanEncode p).finish r = s.finish r := rfl
@[simp] theorem State.finish_scanRequest (req : Request) : (s.scanRequest req).finish r = s.finish r := rfl
@[simp] theorem State.finish_withFrm (f : FrmUnit) : (s.withFrm f).finish r = s.finish r := rfl
@[simp] theorem State.finish_withRng (g : RngUnit) : (s.withRng g).finish r = s.finish r := rfl
@[simp] theorem State.finish_withHex (h : HexUnit) : (s.withHex h).finish r = s.finish r := rfl
@[simp] theorem State.finish_withSes (u : SesUnit) : (s.withSes u).finish r = s.finish r := rfl
@[simp] theorem State.finish_nextLine : s.nextLine.finish r = s.finish r := rfl
@[simp] theorem State.finish_openPass (c : Consumer) : (s.openPass c).finish r = s.finish r := rfl
@[simp] theorem State.finish_openRange (a b : Nat) : (s.openRange a b).finish r = s.finish r := rfl

theorem State.raise_eq_finish (e : Err) : s.raise e = s.finish (.err e) := rfl
theorem State.refuse_eq_finish (q : RefusalReason) : s.refuse q = s.finish (.refused q) := rfl

/-- The whole of ending an operation. -/
theorem State.finish_eq : s.finish r =
    { s.clearUnits with port := s.port.tail, trace := s.trace ++ [.outcome r] } := rfl

/-- Two states that agree outside their unit registers end an operation alike. -/
theorem State.finish_congr {s t : State} (hc : s.config = t.config) (hp : s.port = t.port) (ha : s.answers = t.answers)
    (ht : s.transport = t.transport) (hd : s.draws = t.draws) (htr : s.trace = t.trace) : s.finish r = t.finish r := by
  cases s; cases t; simp_all [State.finish, State.deliver, State.clearUnits]

end

/-! ### The transport port (R31) -/

theorem State.nextRead_cons {s : State} {a : ReadAnswer} {rest : List ReadAnswer} (h : s.transport = a :: rest) :
    s.nextRead = a := by simp [State.nextRead, h]

theorem State.dropRead_cons {s : State} {a : ReadAnswer} {rest : List ReadAnswer} (h : s.transport = a :: rest) :
    s.dropRead = { s with transport := rest } := by simp [State.dropRead, h]

/-- A read gives SES at most READ_MAX bytes, whatever the transport answers (R31). -/
theorem State.txRead_length (s : State) : s.txRead.ses.rx.length ≤ s.config.readMax := by
  simp [List.length_take]

/-! ### The emission port with the host as consumer (R30) -/

theorem State.nextAnswer_cons {s : State} {a : EmitAnswer} {rest : List EmitAnswer} (h : s.answers = a :: rest) :
    s.nextAnswer = a := by simp [State.nextAnswer, h]

theorem State.emitHost_cons {s : State} {x : EmitAnswer} {rest : List EmitAnswer} (h : s.answers = x :: rest) (a : Nat)
    (v : Byte) : s.emitHost a v = { s with answers := rest, trace := s.trace ++ [.emit .host a v x] } := by
  simp [State.emitHost, State.dropAnswer, State.nextAnswer, h]

end Sys2Proof.Machine
end

