-- ==== Sys2Proof/Laws/Pass.lean ====
section
/-! SUPPORT. What a pass can do, said once: it moves the HEX registers, makes emissions to its one consumer, and moves that
consumer's side; everything else stays. Derived lemma by lemma from an emission up to a whole pass. -/

namespace Sys2Proof.Machine

open Sys2Proof.Config

/-- The state a step of a pass is in when it ends, however it ends. -/
def PassStep.state : PassStep → State
  | .more s => s
  | .stopped s => s
  | .failed _ s => s

/-- What a part of a pass may change between `s` and `t`. -/
structure PassFrame (s t : State) : Prop where
  config : t.config = s.config
  crc : t.crc = s.crc
  frm : t.frm = s.frm
  enc : t.enc = s.enc
  ses : t.ses = s.ses
  port : t.port = s.port
  transport : t.transport = s.transport
  consumer : t.hex.consumer = s.hex.consumer
  /-- A host pass does not touch the range-CRC unit. -/
  hostSide : s.hex.consumer = .host → t.rng = s.rng
  /-- A range pass uses up no answer of the host. -/
  rangeSide : s.hex.consumer = .range → t.answers = s.answers ∧ t.draws = s.draws
  /-- The range window is latched. -/
  window : t.rng.start = s.rng.start ∧ t.rng.stop = s.rng.stop
  /-- The trace grows by emissions to the pass's consumer. -/
  trace : ∃ es, t.trace = s.trace ++ es ∧ ∀ e ∈ es, ∃ a v ans, e = .emit s.hex.consumer a v ans

theorem PassFrame.refl (s : State) : PassFrame s s where
  config := rfl
  crc := rfl
  frm := rfl
  enc := rfl
  ses := rfl
  port := rfl
  transport := rfl
  consumer := rfl
  hostSide _ := rfl
  rangeSide _ := ⟨rfl, rfl⟩
  window := ⟨rfl, rfl⟩
  trace := ⟨[], by simp⟩

theorem PassFrame.trans {s t u : State} (h : PassFrame s t) (k : PassFrame t u) : PassFrame s u where
  config := k.config.trans h.config
  crc := k.crc.trans h.crc
  frm := k.frm.trans h.frm
  enc := k.enc.trans h.enc
  ses := k.ses.trans h.ses
  port := k.port.trans h.port
  transport := k.transport.trans h.transport
  consumer := k.consumer.trans h.consumer
  hostSide c := (k.hostSide (h.consumer.trans c)).trans (h.hostSide c)
  rangeSide c := ⟨(k.rangeSide (h.consumer.trans c)).1.trans (h.rangeSide c).1,
    (k.rangeSide (h.consumer.trans c)).2.trans (h.rangeSide c).2⟩
  window := ⟨k.window.1.trans h.window.1, k.window.2.trans h.window.2⟩
  trace := by
    obtain ⟨es, h1, h2⟩ := h.trace
    obtain ⟨fs, k1, k2⟩ := k.trace
    refine ⟨es ++ fs, by rw [k1, h1, List.append_assoc], fun e he => ?_⟩
    rcases List.mem_append.1 he with he | he
    · exact h2 e he
    · rw [h.consumer] at k2; exact k2 e he

/-- A change of HEX registers that keeps the consumer is within the frame. -/
theorem PassFrame.withHex (s : State) (x : HexUnit) (h : x.consumer = s.hex.consumer) : PassFrame s (s.withHex x) :=
  { PassFrame.refl s with consumer := h }

/-! ### One emission -/

/-- Setting the cursor at the first in-window byte, and leaving a set cursor (R32, R212). -/
theorem RngUnit.setCursor_eq (r : RngUnit) (a : Nat) : r.setCursor a = { r with cursor := some (r.cursor.getD a) } := by
  cases r with | mk crc cursor start stop stopped refused => cases cursor <;> rfl

/-- `OnByte` leaves the window latched (R212). -/
theorem RngUnit.onByte_window (mode : RangeBackward) (a : Nat) (v : Byte) (r : RngUnit) :
    (r.onByte mode a v).2.start = r.start ∧ (r.onByte mode a v).2.stop = r.stop := by
  unfold RngUnit.onByte RngUnit.inWindow
  rw [RngUnit.setCursor_eq]
  cases mode <;> split_ifs <;> simp [RngUnit.setStopped, RngUnit.setRefused, RngUnit.fold, RngUnit.fillGap]

@[simp] theorem State.emit_config (s : State) (a : Nat) (v : Byte) : (s.emit a v).config = s.config := by
  unfold State.emit; split <;> simp

@[simp] theorem State.emit_hex (s : State) (a : Nat) (v : Byte) : (s.emit a v).hex = s.hex := by
  unfold State.emit; split <;> simp

@[simp] theorem State.emit_trace (s : State) (a : Nat) (v : Byte) :
    (s.emit a v).trace = s.trace ++ [.emit s.hex.consumer a v (s.emitAnswer a v)] := by
  unfold State.emit State.emitAnswer; split <;> simp_all

theorem PassFrame.emit (s : State) (a : Nat) (v : Byte) : PassFrame s (s.emit a v) where
  config := by simp
  crc := by unfold State.emit; split <;> simp
  frm := by unfold State.emit; split <;> simp
  enc := by unfold State.emit; split <;> simp
  ses := by unfold State.emit; split <;> simp
  port := by unfold State.emit; split <;> simp
  transport := by unfold State.emit; split <;> simp
  consumer := by simp
  hostSide h := by simp [State.emit, h]
  rangeSide h := by simp [State.emit, h]
  window := by
    unfold State.emit; split
    · simp
    · exact RngUnit.onByte_window _ a v s.rng
  trace := ⟨_, s.emit_trace a v, by simp⟩

/-! ### Records, lines, passes -/

theorem emitAll_frame (a : Nat) (data : Bytes) (s : State) :
    PassFrame s (emitAll a data s).state ∧ (emitAll a data s).state.hex = s.hex := by
  induction data generalizing a s with
  | nil => exact ⟨PassFrame.refl s, rfl⟩
  | cons v vs ih =>
    unfold emitAll
    split
    · exact ⟨(PassFrame.emit s a v).trans (ih (a + 1) (s.emit a v)).1, by rw [(ih (a + 1) (s.emit a v)).2, s.emit_hex]⟩
    · exact ⟨PassFrame.emit s a v, s.emit_hex a v⟩

/-- A Data record's emissions raise no error. -/
theorem emitAll_not_failed (a : Nat) (data : Bytes) (s : State) (d : HexDetail) (t : State) :
    emitAll a data s ≠ .failed d t := by
  induction data generalizing a s with
  | nil => simp [emitAll]
  | cons v vs ih => unfold emitAll; split <;> simp [ih]

theorem dataRecord_frame (address : U16) (data : Bytes) (s : State) :
    PassFrame s (dataRecord address data s).state := by
  unfold dataRecord
  split
  · exact PassFrame.refl s
  · have h0 : PassFrame s (s.withHex (s.hex.noteStart (s.effAddr address))) := PassFrame.withHex s _ rfl
    have h1 := (emitAll_frame (s.effAddr address) data (s.withHex (s.hex.noteStart (s.effAddr address)))).1
    simp only []
    split
    · rename_i t ht
      rw [ht] at h1
      exact (h0.trans h1).trans (PassFrame.withHex t _ rfl)
    · exact h0.trans h1

theorem eofRecord_frame (s : State) : PassFrame s (eofRecord s).state := PassFrame.withHex s _ rfl

theorem noOpRecord_frame (s : State) : PassFrame s (noOpRecord s).state := PassFrame.withHex s _ rfl

theorem unknownRecord_frame (s : State) : PassFrame s (unknownRecord s).state := PassFrame.refl s

theorem elaRecord_frame (data : Bytes) (s : State) : PassFrame s (elaRecord data s).state := by
  unfold elaRecord
  split
  · exact PassFrame.withHex s _ rfl
  · exact PassFrame.refl s

theorem recordStep_frame (r : Record) (s : State) : PassFrame s (recordStep r s).state := by
  unfold recordStep
  split <;> first
    | exact dataRecord_frame _ _ s | exact eofRecord_frame s | exact noOpRecord_frame s | exact elaRecord_frame _ s
    | exact unknownRecord_frame s

theorem lineStep_frame (line : Text) (s : State) : PassFrame s (lineStep line s).state := by
  unfold lineStep
  split
  · exact PassFrame.refl s
  · exact PassFrame.withHex s _ rfl
  · exact recordStep_frame _ s

theorem passLoop_frame (ls : List Text) (s : State) : PassFrame s (passLoop ls s).state := by
  induction ls generalizing s with
  | nil => exact PassFrame.refl s
  | cons l ls ih =>
    have h := lineStep_frame l s
    unfold passLoop
    split
    · rename_i t ht
      rw [ht] at h
      exact h.trans (ih t)
    · exact h

/-! ### How a part of a pass ends -/

/-- How the events of a part of a pass say how it ended: every emission was answered Continue, but for the last one of a part
that a Stop ended (R30, R151). -/
def PassStep.AnswersFrom (s : State) (p : PassStep) : Prop :=
  ∃ es : List Event, (∀ e ∈ es, ∃ a v, e = .emit s.hex.consumer a v .cont) ∧
    match p with
    | .stopped t => ∃ a v, t.trace = s.trace ++ es ++ [.emit s.hex.consumer a v .stop]
    | other => other.state.trace = s.trace ++ es

/-- A part of a pass that shows no event and does not stop. -/
theorem PassStep.AnswersFrom.quiet {s : State} {p : PassStep} (h : p.state.trace = s.trace) (hp : ∀ t, p ≠ .stopped t) :
    p.AnswersFrom s := by
  refine ⟨[], by simp, ?_⟩
  cases p with
  | stopped t => exact (hp t rfl).elim
  | more t => simpa using h
  | failed d t => simpa using h

/-- A part of a pass after another. -/
theorem PassStep.AnswersFrom.after {s t : State} {p : PassStep} (hc : t.hex.consumer = s.hex.consumer)
    (h : (PassStep.more t).AnswersFrom s) (k : p.AnswersFrom t) : p.AnswersFrom s := by
  obtain ⟨es, h1, h2⟩ := h
  obtain ⟨fs, k1, k2⟩ := k
  simp only [PassStep.state] at h2
  rw [hc] at k1 k2
  refine ⟨es ++ fs, fun e he => (List.mem_append.1 he).elim (h1 e) (k1 e), ?_⟩
  cases p <;> simpa [h2, PassStep.state] using k2

theorem emitAll_answers (a : Nat) (data : Bytes) (s : State) : (emitAll a data s).AnswersFrom s := by
  induction data generalizing a s with
  | nil => exact .quiet rfl (by simp [emitAll])
  | cons v vs ih =>
    unfold emitAll
    split
    · rename_i h
      refine PassStep.AnswersFrom.after (by simp) ⟨[.emit s.hex.consumer a v .cont], by simp, ?_⟩ (ih _ (s.emit a v))
      simp [PassStep.state, h]
    · rename_i h
      exact ⟨[], by simp, a, v, by simp [h]⟩

theorem dataRecord_answers (address : U16) (data : Bytes) (s : State) : (dataRecord address data s).AnswersFrom s := by
  unfold dataRecord
  split
  · exact .quiet rfl (by simp)
  · obtain ⟨es, h1, h2⟩ := emitAll_answers (s.effAddr address) data (s.withHex (s.hex.noteStart (s.effAddr address)))
    simp only []
    split
    · rename_i t ht
      rw [ht] at h2
      exact ⟨es, h1, h2⟩
    · exact ⟨es, h1, h2⟩

theorem recordStep_answers (r : Record) (s : State) : (recordStep r s).AnswersFrom s := by
  unfold recordStep
  split
  · exact dataRecord_answers _ _ s
  all_goals first
    | exact .quiet rfl (by simp [eofRecord, noOpRecord, unknownRecord])
    | (unfold elaRecord; split <;> exact .quiet rfl (by simp))

theorem lineStep_answers (line : Text) (s : State) : (lineStep line s).AnswersFrom s := by
  unfold lineStep
  split
  · exact .quiet rfl (by simp)
  · exact .quiet rfl (by simp)
  · exact recordStep_answers _ s

/-- In a whole pass every emission is answered Continue, but for the last one of a pass that a Stop ended (R151, R212). -/
theorem passLoop_answers (ls : List Text) (s : State) : (passLoop ls s).AnswersFrom s := by
  induction ls generalizing s with
  | nil => exact .quiet rfl (by simp [passLoop])
  | cons l ls ih =>
    have h := lineStep_answers l s
    have hc := (lineStep_frame l s).consumer
    unfold passLoop
    split
    · rename_i t ht
      rw [ht] at h hc
      exact h.after hc (ih t)
    · exact h

/-- A line that fails leaves the state as it found it (R142, R144, R149, R150, R154, R156). -/
theorem lineStep_failed {line : Text} {d : HexDetail} {s u : State} (h : lineStep line s = .failed d u) : u = s := by
  unfold lineStep at h
  split at h
  · simp at h; exact h.2.symm
  · simp at h
  · unfold recordStep at h
    split at h
    · unfold dataRecord at h
      split at h
      · simp at h; exact h.2.symm
      · simp only [] at h
        split at h
        · simp at h
        · exact (emitAll_not_failed _ _ _ _ _ h).elim
    · simp [eofRecord] at h
    · simp [noOpRecord] at h
    · simp [noOpRecord] at h
    · unfold elaRecord at h
      split at h <;> simp at h
      exact h.2.symm
    · simp [noOpRecord] at h
    · simp [unknownRecord] at h; exact h.2.symm

/-! ### Passes over parts of a file -/

/-- A pass over two parts goes on from the first to the second only if the first did not end it (R149, R151). -/
theorem passLoop_append (ls ms : List Text) (s : State) :
    passLoop (ls ++ ms) s =
      match passLoop ls s with
      | .more t => passLoop ms t
      | other => other := by
  induction ls generalizing s with
  | nil => rfl
  | cons l ls ih =>
    simp only [List.cons_append, passLoop]
    cases lineStep l s with
    | more t => exact ih t
    | stopped t => rfl
    | failed d t => rfl

/-- A skipped line is only consumed (R141, R21). -/
theorem lineStep_skip {l : Text} (h : hexLineParse l = .ok .skip) (s : State) : lineStep l s = .more s.nextLine := by
  simp [lineStep, h]

/-- A line the encoder writes is run as its record (R84, R86, R146). -/
theorem lineStep_encodeRecord (tt : Byte) (address : U16) (data : Bytes) (h : data.length ≤ 255) (s : State) :
    lineStep (encodeRecord tt address data) s =
      recordStep
        { byteCount := BitVec.ofNat 8 data.length
          address := address
          recordType := tt
          data := data
          checksum := checksumOf (recordHead tt address data) } s := by
  have := (hexLineParse_encodeRecord (pre := []) (post := []) tt address data (by simp) (by simp) h).1
  simp at this
  simp only [lineStep, this]

/-! ### Emissions of a Data record to the host (R150, R151) -/

/-- Every byte is emitted while the host answers Continue. -/
theorem emitAll_host_cont {s : State} {a : Nat} {data : Bytes} {rest : List EmitAnswer} (hc : s.hex.consumer = .host)
    (h : s.answers = List.replicate data.length .cont ++ rest) :
    emitAll a data s = .more { s with answers := rest, trace := s.trace ++ emitted .host a data } := by
  induction data generalizing s a with
  | nil => simp at h; simp [emitAll, emitted, ← h]
  | cons v vs ih =>
    have h' : s.answers = .cont :: (List.replicate vs.length .cont ++ rest) := by simpa [List.replicate_succ] using h
    have e1 : s.emitAnswer a v = .cont := by simp [State.emitAnswer, hc, State.nextAnswer_cons h']
    have e2 : s.emit a v = s.emitHost a v := by simp [State.emit, hc]
    simp only [emitAll, e1]
    rw [e2, State.emitHost_cons h', ih (by simp [hc]) (by simp)]
    simp [emitted]

/-- The host's Stop ends the record at its byte. -/
theorem emitAll_host_stop {s : State} {a : Nat} {before : Bytes} {v : Byte} {after : Bytes} {rest : List EmitAnswer}
    (hc : s.hex.consumer = .host) (h : s.answers = List.replicate before.length .cont ++ .stop :: rest) :
    emitAll a (before ++ v :: after) s =
      .stopped
        { s with
          answers := rest
          trace := s.trace ++ emitted .host a before ++ [.emit .host (a + before.length) v .stop] } := by
  induction before generalizing s a with
  | nil =>
    simp at h
    simp [emitAll, emitted, State.emitAnswer, hc, State.nextAnswer_cons h, State.emit, State.emitHost_cons h]
  | cons w vs ih =>
    have h' : s.answers = .cont :: (List.replicate vs.length .cont ++ .stop :: rest) := by
      simpa [List.replicate_succ] using h
    have e1 : s.emitAnswer a w = .cont := by simp [State.emitAnswer, hc, State.nextAnswer_cons h']
    have e2 : s.emit a w = s.emitHost a w := by simp [State.emit, hc]
    simp only [emitAll, e1, List.cons_append]
    rw [e2, State.emitHost_cons h', ih (by simp [hc]) (by simp)]
    simp [emitted]; omega

/-! ### What an emission does to the range-CRC unit (R212, R215) -/

/-- Every case of `OnByte`, in the order of its checks. -/
theorem RngUnit.onByte_cases (mode : RangeBackward) (a : Nat) (v : Byte) (r : RngUnit) :
    (a < r.start ∧ r.onByte mode a v = (.cont, r)) ∨
    (r.start ≤ a ∧ r.stop ≤ a ∧ r.onByte mode a v = (.stop, { r with stopped := true })) ∨
    (r.start ≤ a ∧ a < r.stop ∧ r.cursor.getD a ≤ a ∧
      r.onByte mode a v =
        (.cont, { r with crc := crcStep v (crcPad (a - r.cursor.getD a) r.crc), cursor := some (a + 1) })) ∨
    (r.start ≤ a ∧ a < r.stop ∧ a < r.cursor.getD a ∧ mode = .refuse ∧
      r.onByte mode a v = (.stop, { r with refused := true })) ∨
    (r.start ≤ a ∧ a < r.stop ∧ a < r.cursor.getD a ∧ mode = .fold ∧
      r.onByte mode a v = (.cont, { r with crc := crcStep v r.crc, cursor := some (a + 1) })) := by
  unfold RngUnit.onByte RngUnit.inWindow
  rw [RngUnit.setCursor_eq]
  by_cases h1 : a < r.start
  · simp [h1]
  · by_cases h2 : r.stop ≤ a
    · simp [h1, h2, RngUnit.setStopped]; omega
    · by_cases h3 : a < r.cursor.getD a
      · have hcu : some (r.cursor.getD a) = r.cursor := by
          cases hc : r.cursor with
          | none => simp [hc] at h3
          | some c => rfl
        cases mode <;> simp [h1, h2, h3, RngUnit.setRefused, RngUnit.fold, hcu] <;> omega
      · simp [h1, h2, h3, RngUnit.fold, RngUnit.fillGap]; omega

/-! ### How a pass ends -/

/-- A host pass ends the operation (R148, R149, R151). -/
theorem closePass_finish (p : PassStep) : ∃ r, closePass p = p.state.finish r := by cases p <;> exact ⟨_, rfl⟩

/-- RANGE_CRC ends the operation (R210, R213, R216). -/
theorem closeRange_finish (p : PassStep) : ∃ r, closeRange p = p.state.finish r := by
  cases p with
  | failed d s => exact ⟨_, rfl⟩
  | more s =>
    simp only [closeRange, State.concludeRange, PassStep.state]
    split <;> exact ⟨_, rfl⟩
  | stopped s =>
    simp only [closeRange, State.concludeRange, PassStep.state]
    split <;> exact ⟨_, rfl⟩

/-- A record by itself leaves the pass's state, or ends the operation with it. -/
theorem PassStep.settle_cases (p : PassStep) : p.settle = p.state ∨ ∃ r, p.settle = p.state.finish r := by
  cases p with
  | more s => exact .inl rfl
  | stopped s =>
    simp only [PassStep.settle, PassStep.state]
    split
    · exact .inr ⟨_, rfl⟩
    · exact .inl rfl
  | failed d s => exact .inr ⟨_, rfl⟩

end Sys2Proof.Machine
end

