-- ==== Sys2Proof/Laws/PerInstr.lean ====
section
/-! SUPPORT. A family of lemmas, one per constructor of `Instr`: each instruction is written at the level its opcode table row
stands at (R97, R74, R76, R84, R71). -/

namespace Sys2Proof.Laws.EncodeLevel

/-- The four levels of encoding, the wire's two directions apart (R99). -/
inductive Level where
  | port
  | request
  | response
  | record
  | symbol
deriving DecidableEq, Repr

/-- The level something is written at. -/
def ofCode : Code → Level
  | .port _ => .port
  | .request _ => .request
  | .response _ => .response
  | .record _ => .record
  | .symbol _ => .symbol

/-- The level of each row of the opcode table (R99). -/
def ofInstr : Instr → Level
  | .crcStep _ _ => .port
  | .crcCompute _ => .port
  | .frameEncode _ => .port
  | .frameDecode _ => .port
  | .hexLineParse _ => .port
  | .hexFileParse _ => .port
  | .requestEncode _ => .port
  | .responseDecode _ _ => .port
  | .readBootInfo => .port
  | .eraseFlash => .port
  | .programFlash _ => .port
  | .readCrc _ _ => .port
  | .jumpToApp => .port
  | .rangeCrc _ _ _ => .port
  | .opselUnknown _ => .port
  | .reqReadBootInfo => .request
  | .reqEraseFlash => .request
  | .reqProgramFlash _ => .request
  | .reqReadCrc _ _ => .request
  | .reqJumpToApp => .request
  | .rspReadBootInfo _ => .response
  | .rspEraseFlash _ => .response
  | .rspProgramFlash _ => .response
  | .rspReadCrc _ => .response
  | .rspJumpToApp _ => .response
  | .rspUnrecognized _ => .response
  | .recData _ _ => .record
  | .recEndOfFile _ _ => .record
  | .recExtSegmentAddr _ _ => .record
  | .recStartSegmentAddr _ _ => .record
  | .recExtLinearAddr _ _ => .record
  | .recStartLinearAddr _ _ => .record
  | .recUnknown _ _ _ => .record
  | .frameStart => .symbol
  | .frameEnd => .symbol
  | .frameEscape => .symbol
  | .frameLiteral _ => .symbol

/-- The instruction is written at its row's level. -/
def Statement (i : Instr) : Prop := ofCode (encode i) = ofInstr i

theorem crcStep : ∀ x0 x1, Statement (.crcStep x0 x1) := fun _ _ => rfl
theorem crcCompute : ∀ x0, Statement (.crcCompute x0) := fun _ => rfl
theorem frameEncode : ∀ x0, Statement (.frameEncode x0) := fun _ => rfl
theorem frameDecode : ∀ x0, Statement (.frameDecode x0) := fun _ => rfl
theorem hexLineParse : ∀ x0, Statement (.hexLineParse x0) := fun _ => rfl
theorem hexFileParse : ∀ x0, Statement (.hexFileParse x0) := fun _ => rfl
theorem requestEncode : ∀ x0, Statement (.requestEncode x0) := fun _ => rfl
theorem responseDecode : ∀ x0 x1, Statement (.responseDecode x0 x1) := fun _ _ => rfl
theorem readBootInfo : Statement .readBootInfo := rfl
theorem eraseFlash : Statement .eraseFlash := rfl
theorem programFlash : ∀ x0, Statement (.programFlash x0) := fun _ => rfl
theorem readCrc : ∀ x0 x1, Statement (.readCrc x0 x1) := fun _ _ => rfl
theorem jumpToApp : Statement .jumpToApp := rfl
theorem rangeCrc : ∀ x0 x1 x2, Statement (.rangeCrc x0 x1 x2) := fun _ _ _ => rfl
theorem opselUnknown : ∀ x0, Statement (.opselUnknown x0) := fun _ => rfl
theorem reqReadBootInfo : Statement .reqReadBootInfo := rfl
theorem reqEraseFlash : Statement .reqEraseFlash := rfl
theorem reqProgramFlash : ∀ x0, Statement (.reqProgramFlash x0) := fun _ => rfl
theorem reqReadCrc : ∀ x0 x1, Statement (.reqReadCrc x0 x1) := fun _ _ => rfl
theorem reqJumpToApp : Statement .reqJumpToApp := rfl
theorem rspReadBootInfo : ∀ x0, Statement (.rspReadBootInfo x0) := fun _ => rfl
theorem rspEraseFlash : ∀ x0, Statement (.rspEraseFlash x0) := fun _ => rfl
theorem rspProgramFlash : ∀ x0, Statement (.rspProgramFlash x0) := fun _ => rfl
theorem rspReadCrc : ∀ x0, Statement (.rspReadCrc x0) := fun _ => rfl
theorem rspJumpToApp : ∀ x0, Statement (.rspJumpToApp x0) := fun _ => rfl
theorem rspUnrecognized : ∀ x0, Statement (.rspUnrecognized x0) := fun _ => rfl
theorem recData : ∀ x0 x1, Statement (.recData x0 x1) := fun _ _ => rfl
theorem recEndOfFile : ∀ x0 x1, Statement (.recEndOfFile x0 x1) := fun _ _ => rfl
theorem recExtSegmentAddr : ∀ x0 x1, Statement (.recExtSegmentAddr x0 x1) := fun _ _ => rfl
theorem recStartSegmentAddr : ∀ x0 x1, Statement (.recStartSegmentAddr x0 x1) := fun _ _ => rfl
theorem recExtLinearAddr : ∀ x0 x1, Statement (.recExtLinearAddr x0 x1) := fun _ _ => rfl
theorem recStartLinearAddr : ∀ x0 x1, Statement (.recStartLinearAddr x0 x1) := fun _ _ => rfl
theorem recUnknown : ∀ x0 x1 x2, Statement (.recUnknown x0 x1 x2) := fun _ _ _ => rfl
theorem frameStart : Statement .frameStart := rfl
theorem frameEnd : Statement .frameEnd := rfl
theorem frameEscape : Statement .frameEscape := rfl
theorem frameLiteral : ∀ x0, Statement (.frameLiteral x0) := fun _ => rfl

end Sys2Proof.Laws.EncodeLevel
end

