-- ==== Sys2Proof/Laws/Session.lean ====
section
/-! SUPPORT. What the session unit does, said once: the byte order of its fields, the frame a request is sent in, and the check of
an unframed response. -/

namespace Sys2Proof.Machine

open Sys2Proof.Config

/-! ### Byte order (R54) -/

theorem le16_eq (v : U16) : le16 v = le16Nat v.toNat := by
  simp only [le16, le16Nat, List.cons.injEq, and_true]
  constructor <;> apply BitVec.eq_of_toNat_eq <;> simp [BitVec.extractLsb'_toNat, Nat.shiftRight_eq_div_pow]

theorem le32_eq (v : U32) : le32 v = le32Nat v.toNat := by
  simp only [le32, le32Nat, List.cons.injEq, and_true]
  refine ⟨?_, ?_, ?_, ?_⟩ <;> apply BitVec.eq_of_toNat_eq <;>
    simp [BitVec.extractLsb'_toNat, Nat.shiftRight_eq_div_pow]

theorem ofLe16_toNat (lo hi : Byte) : (ofLe16 lo hi).toNat = lo.toNat + 256 * hi.toNat := by
  have : ofLe16 lo hi = lo.zeroExtend 16 + hi.zeroExtend 16 <<< 8 := by
    rw [ofLe16, BitVec.add_eq_or_of_and_eq_zero]
    ext i hi; simp; intro h h'; simp [BitVec.getLsbD_of_ge lo i h'] at h
  rw [this]
  have := lo.isLt; have := hi.isLt
  simp [BitVec.toNat_add, BitVec.toNat_shiftLeft, Nat.shiftLeft_eq]
  omega

theorem ofLe16_of_toNat {lo hi : Byte} {v : U16} (h : v.toNat = lo.toNat + 256 * hi.toNat) : ofLe16 lo hi = v :=
  BitVec.eq_of_toNat_eq (by rw [ofLe16_toNat, h])

/-- Two little-endian bytes read back as their value (R54, R78). -/
theorem ofLe16_le16Nat (v : U16) : ofLe16 (BitVec.ofNat 8 v.toNat) (BitVec.ofNat 8 (v.toNat / 256)) = v := by
  apply ofLe16_of_toNat
  have := v.isLt
  simp; omega

/-! ### Requests (R75, R171, R172) -/

theorem Request.body_eq (req : Request) : req.body = requestLayout req := by
  cases req <;> simp [Request.body, Request.opcode, Request.fields, requestLayout, le32_eq]

/-- A message with the CRC the engine computes. -/
theorem message_eq (crcInit : U16) (body : Bytes) :
    message crcInit body = body ++ le16Nat (crcCompute crcInit body).toNat := by rw [message, le16_eq]

/-- The registers a request leaves: the CRC of its body, and the frame of its message (R171, R172). -/
theorem State.scanRequest_eq (s : State) (req : Request) :
    s.scanRequest req =
      { s with
        crc := { acc := crcCompute s.config.crcInit req.body, pos := req.body.length }
        enc :=
          { pos := req.body.length + 2
            out := frameEncode (message s.config.crcInit req.body) } } := by
  simp [State.scanRequest, State.scanEncode, State.scanCrc, CrcUnit.run, foldl_feed, CrcUnit.reset, EncUnit.run_eq,
    frameEncode_eq, message, le16]

/-- The first half of an exchange (R170). -/
theorem State.sendRequest_eq (s : State) (req : Request) :
    s.sendRequest req =
      { s with
        ses := { s.ses with op := req.opcode }
        crc := { acc := crcCompute s.config.crcInit req.body, pos := req.body.length }
        enc :=
          { pos := req.body.length + 2
            out := frameEncode (message s.config.crcInit req.body) }
        trace := s.trace ++ [.txWrite (frameEncode (message s.config.crcInit req.body))] } := by
  simp [State.sendRequest, State.scanRequest_eq, State.withSes, State.txWrite, State.note]

/-! ### Responses (R177) -/

/-- The decode of a framed payload is the check of that payload (R175, R177). -/
theorem State.decodeResponse_frame (s : State) (p pad : Bytes) :
    ∃ f, s.decodeResponse (startByte :: stuffed p ++ endByte :: pad) false = (s.withFrm f).checkMessage p := by
  obtain ⟨f, h1, h2, -⟩ := FrmUnit.run_stuffed p pad
  exact ⟨f, by simp only [State.decodeResponse, h1, h2]; simp⟩

/-- The check of a payload of at least two bytes: the CRC of all but the last two against those two, low byte first (R177). -/
theorem State.checkMessage_append (s : State) (body : Bytes) (lo hi : Byte) :
    s.checkMessage (body ++ [lo, hi]) =
      if crcCompute s.config.crcInit body ≠ ofLe16 lo hi then (s.scanCrc body).raise (.crcMismatch .mismatch)
      else (s.scanCrc body).respond body := by
  have h1 : messageBody (body ++ [lo, hi]) = body := by simp [messageBody]
  have h2 : messageTrailer (body ++ [lo, hi]) = ofLe16 lo hi := by
    simp [messageTrailer, List.getD_eq_getElem?_getD]
  have h3 : ¬ (body ++ [lo, hi]).length < 2 := by simp
  rw [State.checkMessage, if_neg h3, h1, h2]
  simp [State.scanCrc]

/-- Too short a payload for a CRC (R178). -/
theorem State.checkMessage_short (s : State) {p : Bytes} (h : p.length < 2) :
    s.checkMessage p = s.raise (.crcMismatch .short) := by simp [State.checkMessage, h]

/-- A message with its own CRC passes the check (R177). -/
theorem State.checkMessage_message (s : State) (body : Bytes) :
    s.checkMessage (message s.config.crcInit body) = (s.scanCrc body).respond body := by
  rw [message_eq, le16Nat, State.checkMessage_append, ofLe16_le16Nat]
  simp

/-- What a response message does depends on no unit register. -/
theorem State.respond_congr {s t : State} (h : ∀ r, s.finish r = t.finish r) (body : Bytes) :
    s.respond body = t.respond body := by
  have hr : ∀ e, s.raise e = t.raise e := fun e => h _
  unfold State.respond
  split
  · simp [State.unrecognized, hr]
  · split <;> simp only [State.takeBootInfo, State.takeCrc, State.takeBare, State.unrecognized, h, hr]

/-- RESPONSE_DECODE always ends the operation; a timeout ends it with NoResponseError (R177, R234). -/
theorem State.decodeResponse_finish (s : State) (r : Bytes) (timedOut : Bool) :
    ∃ o, s.decodeResponse r timedOut = s.finish o ∧ (timedOut = true → o = .err .noResponse) := by
  unfold State.decodeResponse
  split
  · exact ⟨_, rfl, fun _ => rfl⟩
  · rename_i hb
    simp only [hb, Bool.false_eq_true, false_imp_iff, and_true]
    split
    · exact ⟨_, rfl⟩
    · unfold State.checkMessage
      split
      · exact ⟨_, rfl⟩
      · simp only []
        split
        · exact ⟨_, rfl⟩
        · unfold State.respond
          split
          · exact ⟨_, rfl⟩
          · split <;> first
              | exact ⟨_, rfl⟩
              | (simp only [State.takeBootInfo, State.takeCrc, State.takeBare]; split <;> exact ⟨_, rfl⟩)

/-- What RESPONSE_DECODE does depends on no unit register. -/
theorem State.decodeResponse_congr {s t : State} (h : ∀ r, s.finish r = t.finish r) (hc : s.config = t.config) (r : Bytes)
    (timedOut : Bool) : s.decodeResponse r timedOut = t.decodeResponse r timedOut := by
  have hr : ∀ e, s.raise e = t.raise e := fun e => h _
  unfold State.decodeResponse
  split; exact hr _
  split; exact hr _
  rename_i f hf
  unfold State.checkMessage
  split; exact hr _
  have hacc : ((s.withFrm f).scanCrc (messageBody f.out)).crc.acc = ((t.withFrm f).scanCrc (messageBody f.out)).crc.acc := by
    simp [State.scanCrc, hc]
  simp only [hacc]
  split; exact hr _
  exact State.respond_congr (fun r => h r) _

/-- An exchange ends with the decode of what it read, after its write and its read (R170, R174). -/
theorem State.exchange_eq (s : State) (req : Request) :
    s.exchange req =
      (s.begin.sendRequest req).txRead.decodeResponse (s.begin.sendRequest req).txRead.ses.rx
        (s.begin.sendRequest req).txRead.ses.timedOut := rfl

/-- The read of an exchange when the transport's next answer is listed (R31, R174). -/
theorem State.txRead_cons {s : State} {a : ReadAnswer} {rest : List ReadAnswer} (h : s.transport = a :: rest) :
    s.txRead =
      { s with
        transport := rest
        ses := { s.ses with rx := a.bytes.take s.config.readMax, timedOut := a.timedOut }
        trace := s.trace ++ [.txRead s.config.readMax s.config.timeoutMs (a.bytes.take s.config.readMax) a.timedOut] } := by
  simp [State.txRead, State.nextRead_cons h, State.dropRead_cons h]

end Sys2Proof.Machine
end

