-- ==== Sys2Proof/Tests/Slice0.lean ====
section
/-! SUPPORT. The model's own tests: well-formedness, decoding of words written out by hand, the spec's vectors
(95_test_vectors.md), and for every obligation with hypotheses a concrete case that meets them. -/

namespace Sys2Proof.Tests

open Sys2Proof Sys2Proof.Machine Sys2Proof.Config

/-! ### Helpers -/

/-- The ASCII codes of a string. -/
def text (s : String) : Text := s.toList.map fun c => BitVec.ofNat 8 c.toNat

/-- Bytes from their values. -/
def bytes (l : List Nat) : Bytes := l.map (BitVec.ofNat 8)

/-- The events one step shows when the instruction is presented after reset. -/
def shown (i : Instr) (s : State) : List Event :=
  match encode i with
  | .port p =>
    match step { s with port := [p] } with
    | .next t => t.trace
    | _ => []
  | _ => []

/-- What a meaning leaves, read off the next state. -/
def after {α : Type} (i : Instr) (s : State) (view : State → α) : Option α :=
  match exec i s with
  | .next t => some (view t)
  | _ => none

/-- Reset with one answer of the transport to come. -/
def answering (r : Bytes) (timedOut : Bool) : State := { State.reset with transport := [⟨r, timedOut⟩] }

/-- Reset with the host's answers to come. -/
def consuming (l : List EmitAnswer) : State := { State.reset with answers := l }

/-- The configuration with RANGE_BACKWARD = fold. -/
def folding : State := State.resetWith { Configuration.default with rangeBackward := .fold }

/-- The configuration with ELA_MODE = legacy. -/
def legacy : State := State.resetWith { Configuration.default with elaMode := .legacy }

/-- Reset with the decoder inside a frame. -/
def inFrame (escaping : Bool) (input : Bytes) : State :=
  State.reset.withFrm { FrmUnit.reset with phase := .inFrame, escaping := escaping, input := input, pos := 1 }

/-- Reset inside a host pass. -/
def inPass (x : U32) (answers : List EmitAnswer) : State :=
  { State.reset with hex := { HexUnit.reset with xaddr := x }, answers := answers }

/-- Reset inside a range pass over `[start, stop)` with a cursor. -/
def inRange (start stop : Nat) (cursor : Option Nat) : State :=
  { State.reset with
    hex := { HexUnit.reset with consumer := .range }
    rng := { RngUnit.reset 0xFFFF#16 with start := start, stop := stop, cursor := cursor } }

/-! ### Well-formedness: an ill-formed term for each check -/

theorem test_wellFormed_opselUnknown :
    (Instr.opselUnknown 0x01#8).wellFormed = false ∧ (Instr.opselUnknown 0x0E#8).wellFormed = false ∧
    (Instr.opselUnknown 0x00#8).wellFormed = true ∧ (Instr.opselUnknown 0x0F#8).wellFormed = true := by decide

theorem test_wellFormed_rspUnrecognized :
    (Instr.rspUnrecognized [0x01#8]).wellFormed = false ∧ (Instr.rspUnrecognized [0x05#8]).wellFormed = false ∧
    (Instr.rspUnrecognized []).wellFormed = true ∧ (Instr.rspUnrecognized [0x06#8]).wellFormed = true := by decide

theorem test_wellFormed_records_too_long :
    (Instr.recData 0#16 (List.replicate 256 0#8)).wellFormed = false ∧
    (Instr.recEndOfFile 0#16 (List.replicate 256 0#8)).wellFormed = false ∧
    (Instr.recExtSegmentAddr 0#16 (List.replicate 256 0#8)).wellFormed = false ∧
    (Instr.recStartSegmentAddr 0#16 (List.replicate 256 0#8)).wellFormed = false ∧
    (Instr.recExtLinearAddr 0#16 (List.replicate 256 0#8)).wellFormed = false ∧
    (Instr.recStartLinearAddr 0#16 (List.replicate 256 0#8)).wellFormed = false ∧
    (Instr.recUnknown 6#8 0#16 (List.replicate 256 0#8)).wellFormed = false := by
  simp only [Instr.wellFormed, dataFits, List.length_replicate]; decide

theorem test_wellFormed_recUnknown :
    (Instr.recUnknown 0x05#8 0#16 []).wellFormed = false ∧ (Instr.recUnknown 0x06#8 0#16 []).wellFormed = true := by decide

theorem test_wellFormed_frameLiteral :
    (Instr.frameLiteral 0x01#8).wellFormed = false ∧ (Instr.frameLiteral 0x04#8).wellFormed = false ∧
    (Instr.frameLiteral 0x10#8).wellFormed = false ∧ (Instr.frameLiteral 0x41#8).wellFormed = true := by decide

/-! ### Decoding: words written out from the encodings of R71, R75, R76, R84, R97 -/

theorem test_decode_port_units :
    decode (.port ⟨0x01#8, .step 0x31#8 0xFFFF#16⟩) = .ok (.crcStep 0x31#8 0xFFFF#16) ∧
    decode (.port ⟨0x02#8, .bytes [0x00#8]⟩) = .ok (.crcCompute [0x00#8]) ∧
    decode (.port ⟨0x03#8, .bytes [0x41#8]⟩) = .ok (.frameEncode [0x41#8]) ∧
    decode (.port ⟨0x04#8, .bytes [0x01#8, 0x04#8]⟩) = .ok (.frameDecode [0x01#8, 0x04#8]) ∧
    decode (.port ⟨0x05#8, .line [0x3A#8]⟩) = .ok (.hexLineParse [0x3A#8]) ∧
    decode (.port ⟨0x06#8, .hex (.lines [])⟩) = .ok (.hexFileParse (.lines [])) ∧
    decode (.port ⟨0x0E#8, .range (.lines []) 3 6⟩) = .ok (.rangeCrc (.lines []) 3 6) := by decide

theorem test_decode_port_session :
    decode (.port ⟨0x07#8, .request .eraseFlash⟩) = .ok (.requestEncode .eraseFlash) ∧
    decode (.port ⟨0x08#8, .response [0x01#8] true⟩) = .ok (.responseDecode [0x01#8] true) ∧
    decode (.port ⟨0x09#8, .none⟩) = .ok .readBootInfo ∧ decode (.port ⟨0x0A#8, .none⟩) = .ok .eraseFlash ∧
    decode (.port ⟨0x0B#8, .bytes [0x02#8]⟩) = .ok (.programFlash [0x02#8]) ∧
    decode (.port ⟨0x0C#8, .window 0x1000#32 0x100#32⟩) = .ok (.readCrc 0x1000#32 0x100#32) ∧
    decode (.port ⟨0x0D#8, .none⟩) = .ok .jumpToApp ∧
    decode (.port ⟨0x00#8, .none⟩) = .ok (.opselUnknown 0x00#8) ∧
    decode (.port ⟨0x0F#8, .bytes []⟩) = .ok (.opselUnknown 0x0F#8) := by decide

theorem test_decode_requests :
    decode (.request [0x01#8]) = .ok .reqReadBootInfo ∧ decode (.request [0x02#8]) = .ok .reqEraseFlash ∧
    decode (.request [0x03#8, 0x02#8, 0x00#8]) = .ok (.reqProgramFlash [0x02#8, 0x00#8]) ∧
    decode (.request [0x04#8, 0x78#8, 0x56#8, 0x34#8, 0x12#8, 0x04#8, 0x03#8, 0x02#8, 0x01#8]) =
      .ok (.reqReadCrc 0x12345678#32 0x01020304#32) ∧
    decode (.request [0x05#8]) = .ok .reqJumpToApp ∧
    decode (.request [0x06#8]) = .error .unknownRequestOpcode ∧ decode (.request []) = .error .emptyRequest ∧
    decode (.request [0x01#8, 0x00#8]) = .error .requestLength := by decide

theorem test_decode_responses :
    decode (.response [0x01#8, 0x02#8, 0x01#8]) = .ok (.rspReadBootInfo [0x02#8, 0x01#8]) ∧
    decode (.response [0x02#8]) = .ok (.rspEraseFlash []) ∧ decode (.response [0x03#8]) = .ok (.rspProgramFlash []) ∧
    decode (.response [0x04#8, 0xFF#8, 0xAE#8]) = .ok (.rspReadCrc [0xFF#8, 0xAE#8]) ∧
    decode (.response [0x05#8]) = .ok (.rspJumpToApp []) ∧ decode (.response []) = .ok (.rspUnrecognized []) ∧
    decode (.response [0x06#8]) = .ok (.rspUnrecognized [0x06#8]) := by decide

theorem test_decode_records :
    decode (.record (text ":020010000102EB")) = .ok (.recData 0x0010#16 [0x01#8, 0x02#8]) ∧
    decode (.record (text ":00000001FF")) = .ok (.recEndOfFile 0#16 []) ∧
    decode (.record (text ":020000021000EC")) = .ok (.recExtSegmentAddr 0#16 [0x10#8, 0x00#8]) ∧
    decode (.record (text ":0400000300000000F9")) = .ok (.recStartSegmentAddr 0#16 [0#8, 0#8, 0#8, 0#8]) ∧
    decode (.record (text ":020000041D00DD")) = .ok (.recExtLinearAddr 0#16 [0x1D#8, 0x00#8]) ∧
    decode (.record (text ":0400000500000100F6")) = .ok (.recStartLinearAddr 0#16 [0#8, 0#8, 1#8, 0#8]) ∧
    decode (.record (text ":00000006FA")) = .ok (.recUnknown 0x06#8 0#16 []) := by decide

theorem test_decode_record_rejections :
    decode (.record (text "# c")) = .error .notARecord ∧
    decode (.record (text ":020010000102EC")) = .error (.badLine .checksum) := by decide

theorem test_decode_symbols :
    decode (.symbol 0x01#8) = .ok .frameStart ∧ decode (.symbol 0x04#8) = .ok .frameEnd ∧
    decode (.symbol 0x10#8) = .ok .frameEscape ∧ decode (.symbol 0x00#8) = .ok (.frameLiteral 0x00#8) := by decide

theorem test_decode_mistyped : decode (.port ⟨0x01#8, .none⟩) = .error .mistypedOperands := by decide

/-- R98's operands that cannot be presented stop the machine by name (log 15). -/
theorem test_step_mistyped :
    (match step { State.reset with port := [⟨0x01#8, .none⟩] } with | .fault f => some f | _ => none) =
      some .mistypedOperands := by decide

theorem test_decodeTableWord :
    decodeTableWord 8 0x07 = some (.requestEncode .readBootInfo) ∧ decodeTableWord 8 0x0C = some (.readCrc 0#32 0#32) ∧
    decodeTableWord 8 0x00 = some (.opselUnknown 0#8) ∧ decodeTableWord 8 0x100 = none := by decide

theorem test_withFetchWord :
    (State.reset.withFetchWord 8 0x0D).fetch = some (.ok .jumpToApp) ∧
    (match step (State.reset.withFetchWord 8 0x02) with | .next t => t.trace | _ => []) =
      [.outcome (.ok (.word 0xFFFF#16))] := by decide

/-! ### CRC (V-CRC-2, V-CRC-3) -/

theorem test_crcStep_vector : shown (.crcStep 0x31#8 0xFFFF#16) State.reset = [.outcome (.ok (.word 0xC782#16))] := by decide

theorem test_crcStep_cancels : shown (.crcStep 0x80#8 0x8000#16) State.reset = [.outcome (.ok (.word 0x0000#16))] := by decide

theorem test_crcCompute_reference :
    shown (.crcCompute (text "123456789")) State.reset = [.outcome (.ok (.word 0x29B1#16))] := by decide

theorem test_crcCompute_zero_init :
    shown (.crcCompute (bytes [0x41])) (State.resetWith { Configuration.default with crcInit := 0#16 }) =
      [.outcome (.ok (.word 0x58E5#16))] := by decide

/-! ### Frames (V-FRM-1, V-FRM-2) -/

theorem test_frameEncode_escapes :
    shown (.frameEncode (bytes [0x01, 0x04, 0x10, 0x00])) State.reset =
      [.outcome (.ok (.frame (bytes [0x01, 0x10, 0x01, 0x10, 0x04, 0x10, 0x10, 0x00, 0x04])))] := by decide

theorem test_frameDecode_remainder :
    shown (.frameDecode (bytes [0x01, 0x41, 0x10, 0x04, 0x42, 0x04, 0x99])) State.reset =
      [.outcome (.ok (.decoded (bytes [0x41, 0x04, 0x42]) [0x99#8]))] := by decide

theorem test_frameDecode_escaped_end :
    shown (.frameDecode (bytes [0x01, 0x10, 0x04])) State.reset = [.outcome (.err (.framing .missingEnd))] := by decide

/-- R124's rows for START. -/
theorem test_frameStart :
    after .frameStart State.reset (fun t => (t.frm.phase, t.frm.pos)) = some (.inFrame, 1) ∧
    after .frameStart (inFrame false []) (fun t => (t.frm.out, t.frm.pos)) = some ([0x01#8], 2) := by decide

/-- R124's rows for END. -/
theorem test_frameEnd :
    after .frameEnd (inFrame false [0x01#8, 0x04#8, 0x99#8]) (fun t => (t.frm.phase, t.frm.rem)) = some (.done, [0x99#8]) ∧
    after .frameEnd (inFrame true []) (fun t => (t.frm.out, t.frm.escaping)) = some ([0x04#8], false) := by decide

/-- R124's rows for ESCAPE. -/
theorem test_frameEscape :
    after .frameEscape (inFrame false []) (fun t => (t.frm.out, t.frm.escaping)) = some ([], true) ∧
    after .frameEscape (inFrame true []) (fun t => (t.frm.out, t.frm.escaping)) = some ([0x10#8], false) := by decide

/-- R124's rows for another byte. -/
theorem test_frameLiteral :
    after (.frameLiteral 0x41#8) (inFrame true []) (fun t => (t.frm.out, t.frm.escaping)) = some ([0x41#8], false) ∧
    after (.frameLiteral 0x41#8) State.reset (fun t => t.trace) = some [.outcome (.err (.framing .missingStart))] := by decide

/-! ### Hex lines and files (V-HEX-1 to V-HEX-4) -/

theorem test_hexLineParse_record :
    shown (.hexLineParse (text "  :020010000102eb\r\n")) State.reset =
      [.outcome (.ok (.record ⟨2#8, 0x0010#16, 0#8, [1#8, 2#8], 0xEB#8⟩))] := by decide

theorem test_hexLineParse_first_check_wins :
    shown (.hexLineParse (text "hello")) State.reset = [.outcome (.err (.hexFormat .tooShort))] ∧
    shown (.hexLineParse (text ":02 0010000102EB")) State.reset = [.outcome (.err (.hexFormat .badDigit))] := by decide

theorem test_hexFileParse_offset :
    shown (.hexFileParse (.lines [text ":020000040001F9", text ":020010000102EB", text ":00000001FF"]))
      (consuming [.cont, .cont]) =
      [.emit .host 0x10010 1#8 .cont, .emit .host 0x10011 2#8 .cont,
       .outcome (.ok (.window (some 0x10010) (some 0x10012)))] := by decide

theorem test_hexFileParse_stop :
    shown (.hexFileParse (.lines [text ":04010000DEADBEEFC3"])) (consuming [.cont, .cont, .stop]) =
      [.emit .host 0x100 0xDE#8 .cont, .emit .host 0x101 0xAD#8 .cont, .emit .host 0x102 0xBE#8 .stop,
       .outcome (.ok .stopped)] := by decide

theorem test_recordBytes :
    recordBytes (text ":020000040001F9") = some (bytes [0x02, 0x00, 0x00, 0x04, 0x00, 0x01, 0xF9]) := by decide

/-- R51: the highest offset and address, with no wrap. -/
theorem test_recData_no_wrap :
    after (.recData 0xFFFE#16 [0xAA#8, 0xBB#8]) (inPass 0xFFFF0000#32 [.cont, .cont])
      (fun t => (t.trace, t.hex.startAddr, t.hex.endAddr)) =
      some ([.emit .host 0xFFFFFFFE 0xAA#8 .cont, .emit .host 0xFFFFFFFF 0xBB#8 .cont], some 0xFFFFFFFE,
        some 0x100000000) := by decide

/-- R150, R152: startAddr stays, endAddr follows the last record, and the image holds the byte. -/
theorem test_recData_second :
    after (.recData 0x0002#16 [0x22#8])
      { State.reset with hex := { HexUnit.reset with startAddr := some 6, endAddr := some 7 }, answers := [.cont] }
      (fun t => (t.hex.startAddr, t.hex.endAddr, t.imageByte 2, t.imageByte 3)) =
      some (some 6, some 3, 0x22#8, 0xFF#8) := by decide

theorem test_recEndOfFile :
    after (.recEndOfFile 0#16 []) (inPass 0#32 []) (fun t => (t.hex.eofSeen, t.hex.pos)) = some (true, 1) := by decide

theorem test_recExtLinearAddr :
    after (.recExtLinearAddr 0#16 [0x12#8, 0x34#8]) State.reset (fun t => t.hex.xaddr) = some 0x12340000#32 ∧
    after (.recExtLinearAddr 0#16 [0x12#8, 0x34#8]) legacy (fun t => t.hex.xaddr) = some 0x34120000#32 := by decide

theorem test_recExtLinearAddr_length :
    after (.recExtLinearAddr 0#16 [0x80#8]) State.reset (fun t => t.trace) =
      some [.outcome (.err (.hexFormat .badElaLength))] := by decide

theorem test_recExtSegmentAddr :
    after (.recExtSegmentAddr 0#16 [0x10#8, 0x00#8]) State.reset (fun t => (t.hex.xaddr, t.hex.pos)) = some (0#32, 1) := by
  decide

theorem test_recStartSegmentAddr :
    after (.recStartSegmentAddr 0#16 [0#8, 0#8, 0#8, 0#8]) State.reset (fun t => (t.hex.xaddr, t.hex.pos)) =
      some (0#32, 1) := by decide

theorem test_recStartLinearAddr :
    after (.recStartLinearAddr 0#16 [0#8, 0#8, 1#8, 0#8]) State.reset (fun t => (t.hex.xaddr, t.hex.pos)) =
      some (0#32, 1) := by decide

theorem test_recUnknown :
    after (.recUnknown 6#8 0#16 []) State.reset (fun t => t.trace) =
      some [.outcome (.err (.hexFormat .unknownType))] := by decide

/-! ### Sessions (V-SES-1 to V-SES-3) -/

theorem test_requestEncode_escaped_crc :
    shown (.requestEncode (.readCrc 0#32 8#32)) State.reset =
      [.outcome (.ok (.frame (bytes [0x01, 0x10, 0x04, 0, 0, 0, 0, 0x08, 0, 0, 0, 0x5E, 0x10, 0x01, 0x04])))] := by decide

theorem test_responseDecode :
    shown (.responseDecode (bytes [0x01, 0x10, 0x04, 0x10, 0x04, 0x10, 0x10, 0xA9, 0xCE, 0x04]) false) State.reset =
      [.outcome (.ok (.response (.readCrc 0x1004#16)))] := by decide

theorem test_responseDecode_mismatch :
    shown (.responseDecode (bytes [0x01, 0x10, 0x04, 0xFF, 0xAE, 0x87, 0x46, 0x04]) false) State.reset =
      [.outcome (.err (.crcMismatch .mismatch))] := by decide

theorem test_readBootInfo :
    shown .readBootInfo (answering (bytes [0x01, 0x10, 0x01, 0x02, 0x10, 0x01, 0xEF, 0x8D, 0x04]) false) =
      [.txWrite (bytes [0x01, 0x10, 0x01, 0xD1, 0xF1, 0x04]),
       .txRead 64 5000 (bytes [0x01, 0x10, 0x01, 0x02, 0x10, 0x01, 0xEF, 0x8D, 0x04]) false,
       .outcome (.ok (.response (.readBootInfo 0x0102#16)))] := by decide

theorem test_eraseFlash_silence :
    shown .eraseFlash (answering [] true) =
      [.txWrite (bytes [0x01, 0x02, 0xB2, 0xC1, 0x04]), .txRead 64 5000 [] true, .outcome (.err .noResponse)] := by decide

theorem test_programFlash :
    shown (.programFlash (bytes [0x00, 0x00, 0x00, 0x01, 0xFF])) (answering (bytes [0x01, 0x03, 0x93, 0xD1, 0x04]) false) =
      [.txWrite (bytes [0x01, 0x03, 0x00, 0x00, 0x00, 0x10, 0x01, 0xFF, 0x31, 0xED, 0x04]),
       .txRead 64 5000 (bytes [0x01, 0x03, 0x93, 0xD1, 0x04]) false, .outcome (.ok (.response .programFlash))] := by decide

/-- The tag is not compared (R180, V-SES-3). -/
theorem test_readCrc_other_tag :
    shown (.readCrc 0x1000#32 0x100#32) (answering (bytes [0x01, 0x02, 0xB2, 0xC1, 0x04]) false) =
      [.txWrite (bytes [0x01, 0x10, 0x04, 0x00, 0x10, 0x10, 0x00, 0x00, 0x00, 0x10, 0x01, 0x00, 0x00, 0xD6, 0x84, 0x04]),
       .txRead 64 5000 (bytes [0x01, 0x02, 0xB2, 0xC1, 0x04]) false, .outcome (.ok (.response .eraseFlash))] := by decide

theorem test_jumpToApp :
    shown .jumpToApp State.reset = [.txWrite (bytes [0x01, 0x05, 0x55, 0xB1, 0x04]), .outcome (.ok .nothing)] := by decide

theorem test_requests_on_the_wire :
    after .reqReadBootInfo State.reset (fun t => (t.ses.op, t.trace)) =
      some (1#8, [.txWrite (bytes [0x01, 0x10, 0x01, 0xD1, 0xF1, 0x04])]) ∧
    after .reqEraseFlash State.reset (fun t => (t.ses.op, t.trace)) =
      some (2#8, [.txWrite (bytes [0x01, 0x02, 0xB2, 0xC1, 0x04])]) ∧
    after (.reqProgramFlash []) State.reset (fun t => (t.ses.op, t.trace)) =
      some (3#8, [.txWrite (bytes [0x01, 0x03, 0x93, 0xD1, 0x04])]) ∧
    after .reqJumpToApp State.reset (fun t => (t.ses.op, t.trace)) =
      some (5#8, [.txWrite (bytes [0x01, 0x05, 0x55, 0xB1, 0x04])]) := by decide

theorem test_reqReadCrc :
    after (.reqReadCrc 0x9D000000#32 0x1000#32) State.reset (fun t => t.trace) =
      some [.txWrite (bytes [0x01, 0x10, 0x04, 0, 0, 0, 0x9D, 0, 0x10, 0x10, 0, 0, 0x0E, 0xC0, 0x04])] := by decide

theorem test_responses_values :
    after (.rspReadBootInfo [0x02#8, 0x01#8]) State.reset State.trace =
      some [.outcome (.ok (.response (.readBootInfo 0x0102#16)))] ∧
    after (.rspReadCrc [0xFF#8, 0xAE#8]) State.reset State.trace =
      some [.outcome (.ok (.response (.readCrc 0xAEFF#16)))] ∧
    after (.rspEraseFlash []) State.reset State.trace = some [.outcome (.ok (.response .eraseFlash))] ∧
    after (.rspProgramFlash []) State.reset State.trace = some [.outcome (.ok (.response .programFlash))] ∧
    after (.rspJumpToApp []) State.reset State.trace = some [.outcome (.ok (.response .jumpToApp))] := by decide

theorem test_responses_errors :
    after (.rspReadBootInfo [0x02#8]) State.reset State.trace = some [.outcome (.err (.framing .badLength))] ∧
    after (.rspEraseFlash [0x00#8]) State.reset State.trace = some [.outcome (.err (.framing .badLength))] ∧
    after (.rspUnrecognized [0xFF#8]) State.reset State.trace =
      some [.outcome (.err (.unrecognizedOp (some 0xFF#8)))] := by decide

/-! ### Range CRC (V-RNG-1) and the operation port (V-OPS-1) -/

theorem test_rangeCrc_gap_and_pad :
    (shown (.rangeCrc (.lines [text ":030000001020309D", text ":010006006693", text ":00000001FF"]) 1 8)
      State.reset).getLast? = some (.outcome (.ok (.word 0xD1A7#16))) := by decide

theorem test_rangeCrc_backward :
    (shown (.rangeCrc (.lines [text ":010006006693", text ":020002002223B7"]) 0 8) State.reset).getLast? =
      some (.outcome (.refused .rangeNonMonotonic)) ∧
    (shown (.rangeCrc (.lines [text ":010006006693", text ":020002002223B7"]) 0 8) folding).getLast? =
      some (.outcome (.ok (.word 0x2210#16))) := by decide

theorem test_opselUnknown : shown (.opselUnknown 0x0F#8) State.reset = [.outcome (.refused .unknownOperation)] := by decide

/-- Numeric codes of R230, R231, R235 and R239. -/
theorem test_codes :
    (Err.hexFormat .dataAfterEof).kindCode = 5 ∧ (Err.hexFormat .dataAfterEof).detailCode = some 8 ∧
    (Err.framing .badLength).detailCode = some 3 ∧ RefusalReason.rangeNonMonotonic.code = 2 := by decide

/-! ### Witnesses: for each obligation with hypotheses, concrete values that meet them -/

theorem witness_CrcStepResult : crcStep 0x31#8 0xFFFF#16 = crcStep 0x31#8 0xFFFF#16 ∧ crcStep 0x31#8 0#16 ≠ crcStep 0x30#8 0#16 := by
  decide

theorem witness_CrcReferenceValues :
    State.reset.config.crcInit = 0xFFFF#16 ∧
    (State.resetWith { Configuration.default with crcInit := 0#16 }).config.crcInit = 0x0000#16 := by decide

theorem witness_FrameEncodeResult : ∀ b ∈ [0x01#8, 0x04#8, 0x10#8], isSpecial b = true := by decide

theorem witness_FrameDecodeAcceptsGrammar :
    (∀ x ∈ [FrameByte.mk true 0x04#8, ⟨false, 0x01#8⟩, ⟨true, 0x41#8⟩], x.ok = true) ∧
    renderFrame [⟨true, 0x04#8⟩, ⟨false, 0x01#8⟩] = [0x10#8, 0x04#8, 0x01#8] := by decide

theorem witness_FrameDecodeErrors :
    ([] : Bytes).head? ≠ some startByte ∧ [0x04#8].head? ≠ some startByte ∧
    (∀ x ∈ [FrameByte.mk false 0x01#8, ⟨true, 0x10#8⟩], x.ok = true) := by decide

/-- An input of each form: no START, one that runs out without and with an escape pending, and a whole frame with a remainder. -/
theorem witness_FrameDecodeAnswersEveryInput :
    [0x04#8].head? ≠ some startByte ∧
    (∀ x ∈ [FrameByte.mk false 0x41#8, ⟨true, 0x04#8⟩], x.ok = true) ∧
    bytes [0x01, 0x41, 0x10, 0x04] = startByte :: renderFrame [⟨false, 0x41#8⟩, ⟨true, 0x04#8⟩] ∧
    bytes [0x01, 0x41, 0x10, 0x04, 0x10] = startByte :: renderFrame [⟨false, 0x41#8⟩, ⟨true, 0x04#8⟩] ++ [escapeByte] ∧
    bytes [0x01, 0x41, 0x10, 0x04, 0x04, 0x99] =
      startByte :: renderFrame [⟨false, 0x41#8⟩, ⟨true, 0x04#8⟩] ++ endByte :: [0x99#8] := by decide

/-- A state of each phase, in a frame with and without a pending escape. -/
theorem witness_FrameSymbolTransitions :
    (State.reset.withFrm { FrmUnit.reset with phase := .done }).frm.phase = .done ∧
    isSpecial 0x00#8 = false ∧ State.reset.frm.phase = .expectStart ∧
    (inFrame false []).frm.phase = .inFrame ∧ (inFrame false []).frm.escaping = false ∧
    (inFrame true []).frm.phase = .inFrame ∧ (inFrame true []).frm.escaping = true := by decide

theorem witness_FrameScanStepsBySymbol : State.reset.frm.phase ≠ .done ∧ (inFrame true []).frm.phase ≠ .done := by decide

/-- The digit pairs of `:00000001fX`, for a last digit X. -/
def eofDigits (x : Byte) : List (Byte × Byte) :=
  [(0x30#8, 0x30#8), (0x30#8, 0x30#8), (0x30#8, 0x30#8), (0x30#8, 0x31#8), (0x66#8, x)]

/-- White space around a line, and the digits of a right (F) and of a wrong (E) checksum. -/
theorem witness_HexLineRecordFields :
    (∀ c ∈ [0x20#8, 0x09#8], isBlank c = true) ∧ (∀ c ∈ [0x0D#8, 0x0A#8], isBlank c = true) ∧
    (∀ d ∈ eofDigits 0x46#8, isHexDigit d.1 = true ∧ isHexDigit d.2 = true) ∧
    (∀ d ∈ eofDigits 0x45#8, isHexDigit d.1 = true ∧ isHexDigit d.2 = true) ∧
    (eofDigits 0x46#8).map (fun d => BitVec.ofNat 8 (16 * digitValue d.1 + digitValue d.2)) = bytes [0, 0, 0, 1, 0xFF] ∧
    (eofDigits 0x45#8).map (fun d => BitVec.ofNat 8 (16 * digitValue d.1 + digitValue d.2)) = bytes [0, 0, 0, 1, 0xFE] ∧
    (bytes [0, 0, 0, 1, 0xFF]).length = ((bytes [0, 0, 0, 1, 0xFF]).getD 0 0#8).toNat + 5 ∧
    ((bytes [0, 0, 0, 1, 0xFF]).map BitVec.toNat).sum % 256 = 0 ∧
    ((bytes [0, 0, 0, 1, 0xFE]).map BitVec.toNat).sum % 256 ≠ 0 := by
  refine ⟨by decide, by decide, ?_, ?_, by decide, by decide, by decide, by decide, by decide⟩ <;>
    (simp [eofDigits]; decide)

theorem witness_HexLineSkips : ∀ c ∈ [0x20#8, 0x0B#8, 0x0C#8], isBlank c = true := by decide

/-- A line for each clause of the check order, at its boundary: 10 characters, 11 without a colon, a digit and a length wrong,
and one that passes. -/
theorem witness_HexLineChecksInOrder :
    let stripped := fun t : Text => t ≠ [] ∧ (t.head?.all fun c => !isBlank c && c != 0x23#8) = true ∧
      (t.getLast?.all fun c => !isBlank c) = true
    let n := fun t : Text => 16 * digitValue (t.getD 1 0#8) + digitValue (t.getD 2 0#8)
    (stripped (text ":0000001FF") ∧ (text ":0000001FF").length = 10) ∧
    (stripped (text "000000001FF") ∧ (text "000000001FF").length = 11 ∧ (text "000000001FF").head? ≠ some 0x3A#8) ∧
    (stripped (text ":0000000 FF") ∧ (text ":0000000 FF").length = 11 ∧ isHexDigit 0x20#8 = false) ∧
    (stripped (text ":0300100001") ∧ n (text ":0300100001") = 3 ∧ (text ":0300100001").length ≠ 11 + 2 * 3) ∧
    (stripped (text ":00000001FF") ∧ n (text ":00000001FF") = 0 ∧ (text ":00000001FF").length = 11) := by decide

theorem witness_RecordBytesOfLine :
    hexLineParse (text ":00000001ff") = .ok (.record ⟨0#8, 0#16, 1#8, [], 0xFF#8⟩) ∧ (∀ c ∈ [0x20#8], isBlank c = true) ∧ [0x01#8, 0x02#8].length ≤ 255 := by decide

theorem witness_DataRecordEmits :
    (inPass 0x10000#32 [.cont, .cont, .stop]).hex.consumer = .host ∧ (inPass 0x10000#32 [.cont, .cont, .stop]).hex.eofSeen = false ∧
    (inPass 0x10000#32 [.cont, .cont, .stop]).answers = List.replicate [0xAA#8, 0xBB#8].length .cont ++ [.stop] := by decide

theorem witness_DataRecordWritesImage :
    (inPass 0#32 [.cont]).hex.consumer = .host ∧ (inPass 0#32 [.cont]).hex.eofSeen = false ∧
    (inPass 0#32 [.cont]).answers = List.replicate [0xAA#8].length .cont ++ [] := by decide

theorem witness_DataRecordStops :
    (inPass 0#32 [.cont, .stop, .cont]).hex.consumer = .host ∧ (inPass 0#32 [.cont, .stop, .cont]).hex.eofSeen = false ∧
    (inPass 0#32 [.cont, .stop, .cont]).answers = List.replicate [0xAA#8].length .cont ++ .stop :: [.cont] := by decide

theorem witness_ElaRecordSetsOffset : [0x80#8].length ≠ 2 ∧ ([] : Bytes).length ≠ 2 ∧ [1#8, 2#8, 3#8].length ≠ 2 := by decide

theorem witness_EofAndUnknownRecords :
    (State.reset.withHex { HexUnit.reset with eofSeen := true }).hex.eofSeen = true ∧ 5 < (0x06#8).toNat ∧
    5 < (0xFF#8).toNat := by decide

theorem witness_PassRunsDecodedRecords :
    hexLineParse (text ":00000001FF") = .ok (.record ⟨0#8, 0#16, 1#8, [], 0xFF#8⟩) := by decide

/-- One record, and two with one between. -/
theorem witness_HexFileOfDataRecords :
    let one : List (U16 × Bytes) := [(0x10#16, [1#8, 2#8])]
    let three : List (U16 × Bytes) := [(0x10#16, [1#8]), (0x20#16, []), (0x08#16, [2#8])]
    (one = [(0x10#16, [1#8, 2#8])] ∧ three = (0x10#16, [1#8]) :: [(0x20#16, [])] ++ [(0x08#16, [2#8])]) ∧
    (∀ r ∈ one, r.2.length ≤ 255) ∧ (∀ r ∈ three, r.2.length ≤ 255) ∧
    (consuming [.cont, .cont]).answers = List.replicate ((one.map fun r => r.2.length).sum) .cont ++ [] ∧
    (consuming [.cont, .cont, .stop]).answers = List.replicate ((three.map fun r => r.2.length).sum) .cont ++ [.stop] := by
  decide

theorem witness_FilesOfSkippedLines : ∀ l ∈ [text "# c", text "", text " "], hexLineParse l = .ok .skip := by decide

/-- The state of a host pass after the line of one byte 66 at 6, answered with Continue, and what is left of the answers. -/
def afterOneLine (rest : List EmitAnswer) : State :=
  { consuming rest with
    hex := { HexUnit.reset with startAddr := some 6, endAddr := some 7, pos := 1 }
    trace := [.emit .host 6 0x66#8 .cont] }

/-- A line of each kind that ends the pass, after a line that passes: a bad line, an unknown type, an ExtLinearAddr record of one
byte; and a Data record after an EndOfFile record. -/
theorem witness_HexFileErrorEndsPass :
    passLoop [text ":010006006693"] ((consuming [.cont]).begin.openPass .host) = .more (afterOneLine []) ∧
    lineStep (text ":0000001FF") (afterOneLine []) = .failed .tooShort (afterOneLine []) ∧
    lineStep (text ":00000006FA") (afterOneLine []) = .failed .unknownType (afterOneLine []) ∧
    lineStep (text ":01000004807B") (afterOneLine []) = .failed .badElaLength (afterOneLine []) ∧
    passLoop [text ":00000001FF"] (State.reset.begin.openPass .host) =
      .more (State.reset.withHex { HexUnit.reset with eofSeen := true, pos := 1 }) ∧
    lineStep (text ":010006006693") (State.reset.withHex { HexUnit.reset with eofSeen := true, pos := 1 }) =
      .failed .dataAfterEof (State.reset.withHex { HexUnit.reset with eofSeen := true, pos := 1 }) := by decide

/-- A pass that stops at its only byte; and a record of two bytes, the second answered with Stop, after a line that passes. -/
theorem witness_HexFileStopEndsPass :
    passLoop [text ":010006006693"] ((consuming [.stop]).begin.openPass .host) =
      .stopped
        { consuming [] with
          hex := { HexUnit.reset with startAddr := some 6 }
          trace := [.emit .host 6 0x66#8 .stop] } ∧
    passLoop [text ":010006006693"] ((consuming [.cont, .cont, .stop]).begin.openPass .host) =
      .more (afterOneLine [.cont, .stop]) ∧
    hexLineParse (text ":020002002223B7") = .ok (.record ⟨2#8, 2#16, 0x00#8, [0x22#8] ++ 0x23#8 :: [], 0xB7#8⟩) ∧
    (afterOneLine [.cont, .stop]).hex.eofSeen = false ∧
    (afterOneLine [.cont, .stop]).answers = List.replicate [0x22#8].length .cont ++ .stop :: [] := by decide

theorem witness_StreamIsItsLines :
    (∀ l ∈ [text ":00000001FF\r", text ""], 0x0A#8 ∉ l) ∧ 0x0A#8 ∉ text "# c" ∧ text "# c" ≠ [] := by decide

theorem witness_ReadCrcWorkedEncoding : State.reset.config.crcInit = 0xFFFF#16 := by decide

theorem witness_RequestMessagesAreWritten :
    wireRequest .reqReadBootInfo = some .readBootInfo ∧ wireRequest .reqEraseFlash = some .eraseFlash ∧
    wireRequest (.reqProgramFlash [0x02#8]) = some (.programFlash [0x02#8]) ∧
    wireRequest (.reqReadCrc 1#32 2#32) = some (.readCrc 1#32 2#32) ∧ wireRequest .reqJumpToApp = some .jumpToApp := by decide

/-- A frame with no START, payloads of 0 and 1 bytes, a wrong CRC, opcodes 0, 6 and 255, bodies one byte short and long. -/
theorem witness_ResponseErrors :
    after (.frameDecode [0x04#8]) State.reset id = some (State.reset.raise (.framing .missingStart)) ∧
    ([] : Bytes).length < 2 ∧ [0x41#8].length < 2 ∧
    (0x00#8).toNat + 256 * (0x00#8).toNat ≠ (crcCompute State.reset.config.crcInit [0x02#8]).toNat ∧
    (0x00#8).toNat = 0 ∧ 5 < (0x06#8).toNat ∧ 5 < (0xFF#8).toNat ∧
    [0x02#8].length ≠ 2 ∧ [0#8, 0#8, 0#8].length ≠ 2 ∧ [0x00#8] ≠ [] := by decide

theorem witness_ResponseMessageDecoders : [0x02#8].length ≠ 2 ∧ [0x00#8] ≠ [] := by decide

theorem witness_ExchangeWritesReadsDecodes :
    sessionRequest .readBootInfo = some .readBootInfo ∧ sessionRequest .eraseFlash = some .eraseFlash ∧
    sessionRequest (.programFlash []) = some (.programFlash []) ∧
    sessionRequest (.readCrc 0#32 8#32) = some (.readCrc 0#32 8#32) ∧
    Request.readBootInfo ≠ .jumpToApp ∧ Request.eraseFlash ≠ .jumpToApp ∧ Request.programFlash [] ≠ .jumpToApp ∧
    Request.readCrc 0#32 8#32 ≠ .jumpToApp ∧ (answering [0x01#8] false).transport = ⟨[0x01#8], false⟩ :: [] := by decide

/-- The EraseFlash response `01 02 B2 C1 04`, padded to READ_MAX = 64 bytes exactly. -/
theorem witness_ExchangeReturnsResponse :
    let s := answering (wireFrame 0xFFFF#16 (responseLayout .eraseFlash) ++ List.replicate 59 0#8) false
    s.transport = ⟨wireFrame s.config.crcInit (responseLayout .eraseFlash) ++ List.replicate 59 0#8, false⟩ :: [] ∧
    (wireFrame s.config.crcInit (responseLayout .eraseFlash) ++ List.replicate 59 0#8).length ≤ s.config.readMax ∧
    wireFrame s.config.crcInit (responseLayout .eraseFlash) = bytes [0x01, 0x02, 0xB2, 0xC1, 0x04] ∧
    sessionRequest .readBootInfo = some .readBootInfo ∧ Request.readBootInfo ≠ .jumpToApp := by decide

theorem witness_ExchangeAlwaysCompletes :
    sessionRequest .eraseFlash = some .eraseFlash ∧ Request.eraseFlash ≠ .jumpToApp ∧ State.reset.transport = [] := by decide

/-- Window [4, 8): an address below it, at its end, the first in-window one, one after a gap, one below the cursor under
each RANGE_BACKWARD. -/
theorem witness_RangeConsumerByte :
    let s := inRange 4 8 none
    let c := inRange 4 8 (some 6)
    s.hex.consumer = .range ∧ s.hex.eofSeen = false ∧ c.hex.consumer = .range ∧ c.hex.eofSeen = false ∧
    s.hex.xaddr.toNat + (3#16).toNat < s.rng.start ∧ s.rng.stop ≤ s.hex.xaddr.toNat + (8#16).toNat ∧
    s.rng.cursor = none ∧ c.rng.cursor = some 6 ∧ 6 ≤ c.hex.xaddr.toNat + (7#16).toNat ∧
    ¬ 6 ≤ c.hex.xaddr.toNat + (5#16).toNat ∧ c.config.rangeBackward = .refuse ∧ folding.config.rangeBackward = .fold := by
  decide

/-- A file whose in-window emissions increase, for the inner hypothesis. -/
theorem witness_RangeCrcIsImageCrc :
    inWindow 1 8 (emissionsTo .range
      (shown (.rangeCrc (.lines [text ":030000001020309D", text ":010006006693", text ":00000001FF"]) 1 8) State.reset)) =
      [(1, 0x20#8), (2, 0x30#8), (6, 0x66#8)] ∧
    Increasing [(1, 0x20#8), (2, 0x30#8), (6, 0x66#8)] ∧
    windowBytes 1 8 [(1, 0x20#8), (2, 0x30#8), (6, 0x66#8)] = bytes [0x20, 0x30, 0xFF, 0xFF, 0xFF, 0x66, 0xFF] :=
  ⟨by decide, by simp [Increasing], by decide⟩

/-- A record that fills its window exactly, and one with the window's end after it. -/
theorem witness_RangeCrcOfOneRecord :
    [0x66#8] ≠ [] ∧ [0x66#8].length ≤ 255 ∧
    6 ≤ elaBase State.reset.config.elaMode 0#8 0#8 + (6#16).toNat ∧
    elaBase State.reset.config.elaMode 0#8 0#8 + (6#16).toNat + [0x66#8].length ≤ 7 ∧
    0x10000 ≤ elaBase State.reset.config.elaMode 0#8 1#8 + (6#16).toNat ∧
    elaBase State.reset.config.elaMode 0#8 1#8 + (6#16).toNat + [0x66#8].length ≤ 0x10010 := by decide

theorem witness_RangeBackwardRefusedOrFolded :
    2 ≤ (2#16).toNat ∧ (2#16).toNat ≤ (2#16).toNat ∧ (2#16).toNat < 3 ∧
    State.reset.config.rangeBackward = .refuse ∧ folding.config.rangeBackward = .fold := by decide

/-- A line that fails before any Stop, and one whose byte lies at the window's end. -/
theorem witness_RangeErrorsAndAbandonment :
    passLoop [text ":00000006FA"] (State.reset.begin.openRange 0 4) =
      .failed .unknownType (State.reset.begin.openRange 0 4) ∧
    passLoop [text ":0100040044B7"] (State.reset.begin.openRange 0 4) =
      .stopped
        { State.reset.begin.openRange 0 4 with
          hex := { HexUnit.reset with startAddr := some 4, consumer := .range }
          rng := { RngUnit.load 0xFFFF#16 0 4 with stopped := true }
          trace := [.emit .range 4 0x44#8 .stop] } := by decide

theorem witness_StepRunsPresentedOperation :
    (State.reset.withFetchWord 8 0x0D).port = ⟨0x0D#8, .none⟩ :: [] ∧
    decode (.port ⟨0x0D#8, .none⟩) = .ok .jumpToApp ∧ State.reset.port = [] := by decide

theorem witness_DecodeOfEncode :
    (Instr.reqReadCrc 0xFFFFFFFF#32 0#32).wellFormed = true ∧ (Instr.recUnknown 0xFF#8 0xFFFF#16 [0#8]).wellFormed = true ∧
    (Instr.frameLiteral 0x00#8).wellFormed = true := by decide

theorem witness_UnknownOpselRefused : (0x00#8).toNat = 0 ∧ 15 ≤ (0x0F#8).toNat ∧ 15 ≤ (0xFF#8).toNat := by decide

theorem witness_ConfigurationIsConstant : after .jumpToApp folding (fun t => t.config) = some folding.config := by decide

/-- A range pass's Data record, with an emission and an image that keeps its bytes. -/
theorem witness_ImageUnchangedElsewhere :
    (inRange 4 8 none).hex.consumer = .range ∧
    after (.recData 4#16 [0x44#8]) (inRange 4 8 none) (fun t => (t.trace, t.imageByte 4)) =
      some ([.emit .range 4 0x44#8 .cont], (inRange 4 8 none).imageByte 4) := by decide

theorem witness_OneOutcomePerOperation :
    (State.reset.withFetchWord 8 0x01).port = ⟨0x01#8, .step 0#8 0#16⟩ :: [] ∧
    decodePort ⟨0x01#8, .step 0#8 0#16⟩ = .ok (.crcStep 0#8 0#16) := by decide

theorem witness_PureOperationsUseNoPort :
    (after (.responseDecode [] true) (answering [] true) fun t => t.transport) = some (answering [] true).transport := by decide

/-- The same presentation after reset and in a state an earlier operation has marked. -/
theorem witness_OutcomeIndependentOfHistory :
    (State.reset.withFetchWord 8 0x0D).SamePorts
      { State.reset.withFetchWord 8 0x0D with crc := ⟨0x1234#16, 9⟩, trace := [.outcome (.ok .skip)] } ∧
    (match step (State.reset.withFetchWord 8 0x0D) with | .next t => t.trace.length | _ => 0) = 2 :=
  ⟨⟨rfl, rfl, rfl, rfl, rfl⟩, by decide⟩

theorem witness_StepKeepsInvariant :
    (State.reset.withFetchWord 8 0x0D).Inv ∧
    (match step (State.reset.withFetchWord 8 0x0D) with | .next t => t.trace.length | _ => 0) = 2 :=
  ⟨⟨by decide, rfl, by intro e he; cases he⟩, by decide⟩

theorem witness_ResetSatisfiesInvariant : Configuration.default.legal = true ∧ folding.config.legal = true := by decide

end Sys2Proof.Tests
end

section
/-! Every operation ends with one outcome (R15, R29, R35), and the state after reset satisfies the invariant (R10, R34, R270,
R271). -/

namespace Sys2Proof.Machine

open Sys2Proof.Config

/-! ### What an operation does before it returns -/

/-- An operation under way has led from `s` to `t`: the presentation it serves still stands at the port, and it has shown
emissions and transport events only (R29, R35). -/
structure State.Underway (s t : State) : Prop where
  port : t.port = s.port
  trace : ∃ es, t.trace = s.trace ++ es ∧ ∀ e ∈ es, e.isPortEvent = true

/-- An operation that has shown nothing yet. -/
theorem State.Underway.quiet {s t : State} (hp : t.port = s.port) (ht : t.trace = s.trace) : s.Underway t :=
  ⟨hp, [], by simp [ht], by simp⟩

theorem State.Underway.trans {s t u : State} (h : s.Underway t) (k : t.Underway u) : s.Underway u := by
  obtain ⟨hp, es, he, hes⟩ := h
  obtain ⟨kp, fs, kf, kfs⟩ := k
  exact ⟨kp.trans hp, es ++ fs, by rw [kf, he, List.append_assoc],
    fun e h => (List.mem_append.1 h).elim (hes e) (kfs e)⟩

/-- One port event more. -/
theorem State.Underway.event {s t : State} {e : Event} (hp : t.port = s.port) (ht : t.trace = s.trace ++ [e])
    (he : e.isPortEvent = true) : s.Underway t :=
  ⟨hp, [e], ht, by simpa using he⟩

/-- A part of a pass shows emissions only (R30, R61). -/
theorem PassFrame.underway {s t : State} (h : PassFrame s t) : s.Underway t := by
  obtain ⟨es, ht, hes⟩ := h.trace
  refine ⟨h.port, es, ht, fun e he => ?_⟩
  obtain ⟨a, v, ans, rfl⟩ := hes e he
  rfl

/-- A request is written in one transport write (R170, R173). -/
theorem State.underway_write (s : State) (req : Request) : s.Underway (s.begin.sendRequest req) := by
  rw [State.sendRequest_eq]
  exact .event rfl rfl rfl

/-- An exchange reads once after its write (R174). -/
theorem State.underway_writeThenRead (s : State) (req : Request) : s.Underway (s.begin.sendRequest req).txRead :=
  (s.underway_write req).trans (.event (State.txRead_port _) (State.txRead_trace _) rfl)

/-! ### Every operation ends by delivering one outcome -/

/-- The step is an operation under way that then returns one outcome (R29): the registers it discards, if it uses any, are
discarded before the return. -/
def State.Returns (s : State) (r : Host.Outcome State Fault Refusal) : Prop :=
  ∃ (m : State) (o : Result), s.Underway m ∧ r = .next (m.deliver o)

/-- Ending an operation discards registers, which neither the port nor the trace shows (R34, R236). -/
theorem State.Returns.finish {s m : State} (h : s.Underway m) (o : Result) : s.Returns (.next (m.finish o)) :=
  ⟨m.clearUnits, o, h.trans (.quiet rfl rfl), rfl⟩

/-- A pass over the lines `ls` that ends the operation by `close` (R146, R210). -/
theorem State.Returns.pass {s t : State} (h : s.Underway t) (ls : List Text) {close : PassStep → State}
    (hclose : ∀ p, ∃ o, close p = p.state.finish o) : s.Returns (.next (close (passLoop ls t))) := by
  obtain ⟨o, ho⟩ := hclose (passLoop ls t)
  rw [ho]
  exact .finish (h.trans (passLoop_frame ls t).underway) o

/-- The decode of a response (R177). -/
theorem State.Returns.decodeResponse {s t : State} (h : s.Underway t) (r : Bytes) (timedOut : Bool) :
    s.Returns (.next (t.decodeResponse r timedOut)) := by
  obtain ⟨o, ho, -⟩ := t.decodeResponse_finish r timedOut
  rw [ho]
  exact .finish h o

/-- The four operations that read a response (R170). -/
theorem State.Returns.exchange (s : State) (req : Request) : s.Returns (.next (s.exchange req)) :=
  .decodeResponse (s.underway_writeThenRead req) _ _

/-- Every operation of the operation port runs to the return of one outcome (R15, R29). -/
theorem exec_returns {i : Instr} (h : i.isOperation = true) (s : State) : s.Returns (exec i s) := by
  cases i with
  | crcStep b st => exact ⟨s, _, .quiet rfl rfl, rfl⟩
  | crcCompute d => exact .finish (s := s) (m := s.begin.scanCrc d) (.quiet rfl rfl) _
  | frameEncode payload => exact .finish (s := s) (m := s.begin.scanEncode payload) (.quiet rfl rfl) _
  | frameDecode input =>
    simp only [exec, execFrameDecode]
    split
    · exact .finish (.quiet rfl rfl) _
    · exact .finish (.quiet rfl rfl) _
  | hexLineParse line =>
    simp only [exec, execHexLineParse]
    split
    · exact ⟨s, _, .quiet rfl rfl, rfl⟩
    · exact .finish (.quiet rfl rfl) _
  | hexFileParse src => exact .pass (s := s) (t := s.begin.openPass .host) (.quiet rfl rfl) _ closePass_finish
  | requestEncode req => exact .finish (s := s) (m := s.begin.scanRequest req) (.quiet rfl rfl) _
  | responseDecode r timedOut => exact .decodeResponse (s := s) (t := s.begin) (.quiet rfl rfl) r timedOut
  | readBootInfo => exact .exchange s _
  | eraseFlash => exact .exchange s _
  | programFlash recordBytes => exact .exchange s _
  | readCrc address length => exact .exchange s _
  | jumpToApp => exact .finish (s.underway_write .jumpToApp) _
  | rangeCrc src start stop => exact .pass (s := s) (t := s.begin.openRange start stop) (.quiet rfl rfl) _ closeRange_finish
  | opselUnknown code => exact .finish (.quiet rfl rfl) _
  | _ => exact absurd h Bool.false_ne_true

/-- Settles O56: the step is `exec` of the operation decoded, which delivers one outcome after port events only. -/
theorem oneOutcomePerOperation : Obligations.OneOutcomePerOperation := by
  unfold Obligations.OneOutcomePerOperation
  intro s p ps i hport hdecode
  obtain ⟨m, o, ⟨hmp, es, hes, hevents⟩, hexec⟩ := exec_returns (decodePort_isOperation hdecode) s
  refine ⟨m.deliver o, es, o, (step_port hport hdecode).trans hexec, ?_, ?_, hevents⟩
  · rw [State.deliver_port, hmp, hport, List.tail_cons]
  · rw [State.deliver_trace, hes]

/-! ### The state after reset -/

/-- Reset leaves every unit register at its reset value (R34, R270). -/
theorem State.resetWith_atRest (c : Configuration) : (State.resetWith c).AtRest := rfl

/-- The state after reset has shown nothing, so only the configuration's legality is left to ask (R22, R271). -/
theorem State.resetWith_inv {c : Configuration} (h : c.legal = true) : (State.resetWith c).Inv where
  legal := h
  atRest := State.resetWith_atRest c
  lawful _ he := absurd he List.not_mem_nil

theorem default_legal : Configuration.default.legal = true := rfl

/-- Settles O60: the invariant for every legal configuration, of which the defaults of R10 are one. -/
theorem resetSatisfiesInvariant : Obligations.ResetSatisfiesInvariant := by
  unfold Obligations.ResetSatisfiesInvariant
  exact ⟨fun c hc => ⟨State.resetWith_inv hc, rfl, rfl, rfl⟩,
    State.resetWith_inv default_legal, rfl, rfl, rfl, rfl, rfl⟩

end Sys2Proof.Machine
end

section
/-! The CRC engine's nibble table is the bitwise definition of the CRC (R100 to R104), so the frames the machine writes are the
spec's (R70, R73). -/

namespace Sys2Proof.Machine

open Sys2Proof.Config

/-- A turn of the bitwise loop is linear over exclusive or. -/
theorem bitShift_xor (x y : U16) : bitShift (x ^^^ y) = bitShift x ^^^ bitShift y := by
  have cancel (u v : U16) : u ^^^ v = (u ^^^ crcPoly) ^^^ (v ^^^ crcPoly) := by
    rw [BitVec.xor_assoc, BitVec.xor_comm v, ← BitVec.xor_assoc crcPoly, BitVec.xor_self, BitVec.zero_xor]
  unfold bitShift
  rw [BitVec.getLsbD_xor, BitVec.shiftLeft_xor_distrib]
  cases x.getLsbD 15 <;> cases y.getLsbD 15
  case false.false => rfl
  case false.true => exact BitVec.xor_assoc ..
  case true.false => simp only [Bool.bne_false, if_true, Bool.false_eq_true, if_false]; ac_rfl
  case true.true => exact cancel _ _

/-- So is any number of turns. -/
theorem iterate_bitShift_xor (n : Nat) (x y : U16) : bitShift^[n] (x ^^^ y) = bitShift^[n] x ^^^ bitShift^[n] y := by
  induction n generalizing x y with
  | zero => rfl
  | succ n ih => simp only [Function.iterate_succ_apply, bitShift_xor, ih]

/-- While the bits that reach the top are clear, the turns of the loop only shift. -/
theorem iterate_bitShift_of_clear {n : Nat} {x : U16} (h : ∀ k, 16 - n ≤ k → x.getLsbD k = false) (hn : n ≤ 16) :
    bitShift^[n] x = x <<< n := by
  induction n with
  | zero => simp
  | succ n ih =>
    have htop : (x <<< n).getLsbD 15 = false := by
      rw [BitVec.getLsbD_shiftLeft, h (15 - n) (by omega), Bool.and_false]
    rw [Function.iterate_succ_apply', ih (fun k hk => h k (by omega)) (by omega), bitShift, htop, if_neg Bool.false_ne_true,
      ← BitVec.shiftLeft_add]

/-- The table holds the bitwise loop's answers for a nibble at the top (R100, R102). -/
theorem iterate_bitShift_nibble : ∀ i : BitVec 4, bitShift^[4] (i.zeroExtend 16 <<< 12) = crcEntry i := by decide

/-- The nibble step is four turns of the bitwise loop with the nibble at the top (R101, R102). -/
theorem nibStep_eq_bitShift (st : U16) (n : BitVec 4) : nibStep st n = bitShift^[4] (st ^^^ n.zeroExtend 16 <<< 12) := by
  have hsplit : st ^^^ n.zeroExtend 16 <<< 12 =
      (st.extractLsb' 0 12).zeroExtend 16 ^^^ (st.extractLsb' 12 4 ^^^ n).zeroExtend 16 <<< 12 := by
    ext i hi
    by_cases h : i < 12
    · simp [h, BitVec.getLsbD_eq_getElem hi]
    · simp [h, show i - 12 < 4 by omega, show 12 + (i - 12) = i by omega, BitVec.getLsbD_eq_getElem hi]
  have hlow : (st.extractLsb' 0 12).zeroExtend 16 <<< 4 = st <<< 4 := by
    ext i hi
    by_cases h : i < 4
    · simp [h]
    · simp [h, show i - 4 < 12 by omega, BitVec.getLsbD_eq_getElem (show i - 4 < 16 by omega)]
  rw [hsplit, iterate_bitShift_xor, iterate_bitShift_nibble, iterate_bitShift_of_clear _ (by omega), hlow, nibStep]
  intro k hk
  simp [show ¬ k < 12 by omega]

/-- The byte step by two table look-ups is the bitwise byte step (R102, R103). -/
theorem crcStep_eq_bitStep (b : Byte) (st : U16) : crcStep b st = bitStep b st := by
  have hbyte : (b.zeroExtend 16 <<< 8 : U16) =
      (b.extractLsb' 4 4).zeroExtend 16 <<< 12 ^^^ (b.extractLsb' 0 4).zeroExtend 16 <<< 8 := by
    ext i hi
    by_cases h : i < 12
    · by_cases h8 : i < 8
      · simp [h, h8]
      · simp [h, h8, show i - 8 < 4 by omega]
    · simp [h, show ¬ i < 8 by omega, show i - 12 < 4 by omega, show ¬ i - 8 < 4 by omega,
        show 4 + (i - 12) = i - 8 by omega]
  have hlow : bitShift^[4] ((b.extractLsb' 0 4).zeroExtend 16 <<< 8) = (b.extractLsb' 0 4).zeroExtend 16 <<< 12 := by
    rw [iterate_bitShift_of_clear _ (by omega), ← BitVec.shiftLeft_add]
    intro k hk
    simp [show ¬ k - 8 < 4 by omega]
  rw [bitStep, hbyte, ← BitVec.xor_assoc, Function.iterate_add_apply bitShift 4 4, iterate_bitShift_xor,
    hlow, ← nibStep_eq_bitShift, ← nibStep_eq_bitShift, crcStep]

/-- The engine's fold is the fold of the bitwise byte step (R104). -/
theorem crcCompute_eq_bitCrc (init : U16) (d : Bytes) : crcCompute init d = bitCrc init d := by
  simp [crcCompute, bitCrc, crcStep_eq_bitStep]

/-- The frame a request is written in, as the spec lays it out byte by byte (R70, R73, R75). -/
theorem frameEncode_request (crcInit : U16) (req : Request) :
    frameEncode (message crcInit req.body) = wireFrame crcInit (requestLayout req) := by
  rw [frameEncode_eq, message_eq, crcCompute_eq_bitCrc, Request.body_eq, wireFrame]

end Sys2Proof.Machine
end

section
/-! What every part of an operation keeps (R22, R31, R34, R51, R73, R148): a legal configuration and lawful events; and what a
pass needs besides for its emissions and its window to be lawful. -/

namespace Sys2Proof.Machine

open Sys2Proof.Config

/-! ### Decoding at the port, the image, exchanges -/

/-- What the operation port decodes to has an encoding: only an unassigned OPSEL selects no operation (R97). -/
theorem decodePort_wellFormed {p : Presentation} {i : Instr} (h : decodePort p = .ok i) : i.wellFormed = true := by
  unfold decodePort at h
  split at h
  case h_15 =>
    cases h
    simp only [Instr.wellFormed, opselAssigned, Bool.not_eq_true', Bool.and_eq_false_iff, decide_eq_false_iff_not]
    simp only [imp_false] at *
    omega
  all_goals
    split at h <;> cases h
    rfl

/-- Events that emit nothing to the host at an address leave its byte of the image as it was (R52). -/
theorem State.imageByte_append {s t : State} {es : List Event} (h : t.trace = s.trace ++ es) {a : Nat}
    (ha : ∀ w ∈ emissionsTo .host es, w.1 ≠ a) : t.imageByte a = s.imageByte a := by
  simp only [State.imageByte, State.image, h, emissionsTo_append]
  exact imageOf_read_append_other ha

/-- Ending an operation leaves every unit register at rest (R34, R236). -/
theorem State.finish_atRest (s : State) (r : Result) : (s.finish r).AtRest := rfl

/-- The four operations that expect a response are exchanges of their requests (R170, R181 to R185). -/
theorem exec_sessionRequest {i : Instr} {req : Request} (h : sessionRequest i = some req) (hj : req ≠ .jumpToApp)
    (s : State) : exec i s = .next (s.exchange req) := by
  cases i <;> cases h
  case jumpToApp => exact absurd rfl hj
  all_goals rfl

/-! ### How a response ends its operation (R177 to R179) -/

/-- The operation under way in `s` ends in `t` with an outcome the block may return (R15, R236). -/
def State.EndsLawfully (s t : State) : Prop := ∃ o : Result, t = s.finish o ∧ o.Lawful s.config

theorem State.EndsLawfully.config {s t : State} (h : s.EndsLawfully t) : t.config = s.config := by
  obtain ⟨o, rfl, -⟩ := h
  rfl

theorem State.takeBootInfo_ends (s : State) (rest : Bytes) : s.EndsLawfully (s.takeBootInfo rest) := by
  unfold State.takeBootInfo
  split <;> exact ⟨_, rfl, trivial⟩

theorem State.takeCrc_ends (s : State) (rest : Bytes) : s.EndsLawfully (s.takeCrc rest) := by
  unfold State.takeCrc
  split <;> exact ⟨_, rfl, trivial⟩

theorem State.takeBare_ends (s : State) (v : Response) (rest : Bytes) : s.EndsLawfully (s.takeBare v rest) := by
  unfold State.takeBare
  split <;> exact ⟨_, rfl, trivial⟩

/-- An opcode is reported as unrecognized only if it names no operation (R77, R233). -/
theorem State.respond_ends (s : State) (body : Bytes) : s.EndsLawfully (s.respond body) := by
  unfold State.respond
  split
  · exact ⟨_, rfl, trivial⟩
  · split
    case h_6 op rest _ _ _ _ _ _ =>
      refine ⟨_, rfl, ?_⟩
      simp only [Result.Lawful, List.head?_cons, Err.Lawful, opcodeKnown, Bool.and_eq_false_iff, decide_eq_false_iff_not]
      simp only [imp_false] at *
      omega
    case h_1 => exact s.takeBootInfo_ends _
    case h_4 => exact s.takeCrc_ends _
    all_goals exact s.takeBare_ends _ _

theorem State.checkMessage_ends (s : State) (p : Bytes) : s.EndsLawfully (s.checkMessage p) := by
  unfold State.checkMessage
  split
  · exact ⟨_, rfl, trivial⟩
  · simp only []
    split
    · exact ⟨_, rfl, trivial⟩
    · exact (s.scanCrc (messageBody p)).respond_ends (messageBody p)

/-- RESPONSE_DECODE ends the operation with a lawful outcome on every path (R177 to R179). -/
theorem State.decodeResponse_ends (s : State) (r : Bytes) (timedOut : Bool) :
    s.EndsLawfully (s.decodeResponse r timedOut) := by
  unfold State.decodeResponse
  split
  · exact ⟨_, rfl, trivial⟩
  · split
    · exact ⟨_, rfl, trivial⟩
    · exact (s.withFrm _).checkMessage_ends _

/-! ### The configuration (R22) -/

theorem State.exchange_config (s : State) (req : Request) : (s.exchange req).config = s.config :=
  (State.decodeResponse_ends _ _ _).config.trans (State.txRead_config _)

theorem State.afterSymbol_config (s : State) (r : Except FramingDetail FrmUnit) : (s.afterSymbol r).config = s.config := by
  unfold State.afterSymbol
  split <;> rfl

/-- A pass keeps the configuration, and so does the end of its operation. -/
theorem PassFrame.finish_config {s t : State} {p : PassStep} (h : PassFrame s p.state) (ht : ∃ o, t = p.state.finish o) :
    t.config = s.config := by
  obtain ⟨o, rfl⟩ := ht
  exact h.config

theorem PassFrame.settle_config {s : State} {p : PassStep} (h : PassFrame s p.state) : p.settle.config = s.config := by
  rcases p.settle_cases with hp | hp
  · exact (congrArg State.config hp).trans h.config
  · exact h.finish_config hp

/-- Every instruction of every level has a meaning, and it keeps the configuration (R22). -/
theorem exec_config (i : Instr) (s : State) : ∃ t, exec i s = .next t ∧ t.config = s.config := by
  cases i with
  | frameDecode input =>
    refine ⟨_, rfl, ?_⟩
    split <;> rfl
  | hexLineParse line =>
    refine ⟨_, rfl, ?_⟩
    split <;> rfl
  | hexFileParse src => exact ⟨_, rfl, (passLoop_frame _ (s.begin.openPass .host)).finish_config (closePass_finish _)⟩
  | rangeCrc src start stop =>
    exact ⟨_, rfl, (passLoop_frame _ (s.begin.openRange start stop)).finish_config (closeRange_finish _)⟩
  | responseDecode r timedOut => exact ⟨_, rfl, (State.decodeResponse_ends _ _ _).config⟩
  | readBootInfo | eraseFlash | programFlash _ | readCrc _ _ => exact ⟨_, rfl, s.exchange_config _⟩
  | rspReadBootInfo rest => exact ⟨_, rfl, (s.takeBootInfo_ends rest).config⟩
  | rspReadCrc rest => exact ⟨_, rfl, (s.takeCrc_ends rest).config⟩
  | rspEraseFlash rest | rspProgramFlash rest | rspJumpToApp rest => exact ⟨_, rfl, (s.takeBare_ends _ rest).config⟩
  | recData address data => exact ⟨_, rfl, (dataRecord_frame address data s).settle_config⟩
  | recExtLinearAddr _ data => exact ⟨_, rfl, (elaRecord_frame data s).settle_config⟩
  | frameStart | frameEnd | frameEscape | frameLiteral _ => exact ⟨_, rfl, s.afterSymbol_config _⟩
  | _ => exact ⟨_, rfl, rfl⟩

/-! ### A legal configuration and lawful events -/

/-- The part of the invariant that holds inside an operation too, while unit registers are in use. -/
structure State.Lawful (s : State) : Prop where
  legal : s.config.legal = true
  lawful : ∀ e ∈ s.trace, e.Lawful s.config

theorem State.Inv.toLawful {s : State} (h : s.Inv) : s.Lawful := ⟨h.legal, h.lawful⟩

/-- A change of unit registers and ports keeps it. -/
theorem State.Lawful.quiet {s t : State} (h : s.Lawful) (hc : t.config = s.config) (ht : t.trace = s.trace) :
    t.Lawful where
  legal := by rw [hc]; exact h.legal
  lawful := by rw [hc, ht]; exact h.lawful

/-- One lawful event more keeps it. -/
theorem State.Lawful.event {s t : State} {e : Event} (h : s.Lawful) (hc : t.config = s.config)
    (ht : t.trace = s.trace ++ [e]) (he : e.Lawful s.config) : t.Lawful where
  legal := by rw [hc]; exact h.legal
  lawful := by
    rw [hc, ht]
    simpa [or_imp, forall_and] using ⟨h.lawful, he⟩

/-- Ending an operation with a lawful outcome brings the whole invariant back: the registers are discarded (R34, R236). -/
theorem State.Lawful.finish {s : State} (h : s.Lawful) {o : Result} (ho : o.Lawful s.config) : (s.finish o).Inv :=
  have ended : (s.finish o).Lawful := h.event rfl rfl ho
  { legal := ended.legal, atRest := s.finish_atRest o, lawful := ended.lawful }

/-- So does an operation that uses no unit register (R103, R140). -/
theorem State.Inv.deliver {s : State} (h : s.Inv) {o : Result} (ho : o.Lawful s.config) : (s.deliver o).Inv :=
  have ended : (s.deliver o).Lawful := h.toLawful.event rfl rfl ho
  { legal := ended.legal, atRest := congrArg (State.deliver · o) h.atRest, lawful := ended.lawful }

theorem State.EndsLawfully.inv {s t : State} (h : s.EndsLawfully t) (hs : s.Lawful) : t.Inv := by
  obtain ⟨o, rfl, ho⟩ := h
  exact hs.finish ho

/-- What an exchange writes is the frame of a request with its CRC (R73, R172). -/
theorem State.Lawful.sendRequest {s : State} (h : s.Lawful) (req : Request) : (s.begin.sendRequest req).Lawful := by
  rw [State.sendRequest_eq]
  exact h.event rfl rfl ⟨req, rfl⟩

/-- What it reads is at most READ_MAX bytes (R31, R174). -/
theorem State.Lawful.txRead {s : State} (h : s.Lawful) : s.txRead.Lawful :=
  h.event s.txRead_config s.txRead_trace ⟨rfl, rfl, List.length_take_le _ _⟩

theorem State.Lawful.exchange_inv {s : State} (h : s.Lawful) (req : Request) : (s.exchange req).Inv :=
  (State.decodeResponse_ends _ _ _).inv (h.sendRequest req).txRead

/-! ### Passes (R146 to R154, R212) -/

/-- What holds at every moment of a pass: the range-CRC unit is refused only under RANGE_BACKWARD = refuse (R215). -/
structure State.InPass (s : State) : Prop extends s.Lawful where
  refused : s.rng.refused = true → s.config.rangeBackward = .refuse

/-- What holds between two lines of a pass: HEX.xaddr leaves room for a 16-bit address below 2^32 (R51, R154), and the
window's ends are both absent or both present (R152). -/
structure State.BetweenLines (s : State) : Prop extends s.InPass where
  xaddr : s.hex.xaddr.toNat + 2 ^ 16 ≤ 2 ^ 32
  window : s.hex.startAddr.isSome = s.hex.endAddr.isSome

/-- What a step of a pass ends in: a pass that goes on stands between two lines. -/
def PassStep.Lawful : PassStep → Prop
  | .more s => s.BetweenLines
  | .stopped s => s.InPass
  | .failed _ s => s.InPass

theorem PassStep.Lawful.inPass {p : PassStep} (h : p.Lawful) : p.state.InPass := by
  cases p with
  | more s => exact State.BetweenLines.toInPass h
  | stopped s => exact h
  | failed d s => exact h

/-- `OnByte` sets the refused flag only under RANGE_BACKWARD = refuse (R212, R215). -/
theorem RngUnit.onByte_refused {mode : RangeBackward} {a : Nat} {v : Byte} {r : RngUnit}
    (h : (r.onByte mode a v).2.refused = true) : r.refused = true ∨ mode = .refuse := by
  rcases r.onByte_cases mode a v with ⟨-, he⟩ | ⟨-, -, he⟩ | ⟨-, -, -, he⟩ | ⟨-, -, -, hm, -⟩ | ⟨-, -, -, -, he⟩
  case inr.inr.inr.inl => exact .inr hm
  all_goals
    rw [he] at h
    exact .inl h

theorem State.emit_refused {s : State} {a : Nat} {v : Byte} (h : (s.emit a v).rng.refused = true) :
    s.rng.refused = true ∨ s.config.rangeBackward = .refuse := by
  unfold State.emit at h
  split at h
  · exact .inl (by simpa using h)
  · exact RngUnit.onByte_refused h

theorem State.InPass.withHex {s : State} (h : s.InPass) (x : HexUnit) : (s.withHex x).InPass where
  toLawful := h.toLawful.quiet rfl rfl
  refused := h.refused

theorem State.InPass.emit {s : State} (h : s.InPass) {a : Nat} (ha : a < effAddrBound) (v : Byte) : (s.emit a v).InPass where
  toLawful := h.toLawful.event (s.emit_config a v) (s.emit_trace a v) ha
  refused hr := (s.emit_config a v).symm ▸ (State.emit_refused hr).elim h.refused id

/-- A record's emissions stay below the bound of image addresses if its last one does (R51). -/
theorem emitAll_inPass {s : State} (h : s.InPass) {a : Nat} {data : Bytes} (ha : a + data.length ≤ effAddrBound) :
    (emitAll a data s).state.InPass := by
  induction data generalizing a s with
  | nil => exact h
  | cons v vs ih =>
    rw [List.length_cons] at ha
    have hemit : (s.emit a v).InPass := h.emit (by omega) v
    unfold emitAll
    split
    · exact ih hemit (by omega)
    · exact hemit

/-- A Data record of at most 255 bytes ends below `2^32 + 2^8`, and sets both ends of the window (R51, R150, R152). -/
theorem dataRecord_lawful {s : State} (h : s.BetweenLines) (address : U16) {data : Bytes}
    (hd : data.length ≤ hexByteCountMax) : (dataRecord address data s).Lawful := by
  unfold dataRecord
  split
  · exact h.toInPass
  · have hbound : s.effAddr address + data.length ≤ effAddrBound := by
      have := h.xaddr
      have := address.isLt
      simp only [State.effAddr, effAddrBound, hexByteCountMax] at *
      omega
    have hin := emitAll_inPass (h.toInPass.withHex (s.hex.noteStart (s.effAddr address))) hbound
    have hhex := (emitAll_frame (s.effAddr address) data (s.withHex (s.hex.noteStart (s.effAddr address)))).2
    simp only []
    generalize emitAll (s.effAddr address) data (s.withHex (s.hex.noteStart (s.effAddr address))) = p at hin hhex ⊢
    cases p with
    | more t =>
      have hhex : t.hex = s.hex.noteStart (s.effAddr address) := hhex
      exact
        { toInPass := (hin.withHex _).withHex _
          xaddr := show t.hex.xaddr.toNat + 2 ^ 16 ≤ 2 ^ 32 by rw [hhex]; exact h.xaddr
          window := show t.hex.startAddr.isSome = true by rw [hhex]; rfl }
    | stopped t => exact hin
    | failed d t => exact hin

/-- The offset of an ExtLinearAddr record by arithmetic (R87, R154). -/
theorem elaOffset_toNat (mode : ElaMode) (d0 d1 : Byte) : (elaOffset mode d0 d1).toNat = elaBase mode d0 d1 := by
  have high_low (hi lo : Byte) : (hi.zeroExtend 32 <<< 24 ||| lo.zeroExtend 32 <<< 16 : U32).toNat =
      hi.toNat * 2 ^ 24 + lo.toNat * 2 ^ 16 := by
    have := hi.isLt
    have := lo.isLt
    rw [BitVec.toNat_or, BitVec.toNat_shiftLeft, BitVec.toNat_shiftLeft]
    simp only [BitVec.truncate_eq_setWidth, BitVec.toNat_setWidth, Nat.shiftLeft_eq]
    rw [Nat.mod_eq_of_lt (by omega), Nat.mod_eq_of_lt (by omega), Nat.mod_eq_of_lt (by omega), Nat.mod_eq_of_lt (by omega),
      ← Nat.shiftLeft_eq hi.toNat, ← Nat.shiftLeft_add_eq_or_of_lt (by omega)]
  cases mode with
  | standard => exact high_low d0 d1
  | legacy => rw [elaOffset, BitVec.or_comm, high_low, elaBase, Nat.add_comm]

theorem elaBase_le (mode : ElaMode) (d0 d1 : Byte) : elaBase mode d0 d1 + 2 ^ 16 ≤ 2 ^ 32 := by
  have := d0.isLt
  have := d1.isLt
  cases mode <;> simp only [elaBase] <;> omega

theorem State.BetweenLines.nextLine {s : State} (h : s.BetweenLines) : s.nextLine.BetweenLines where
  toInPass := h.toInPass.withHex _
  xaddr := h.xaddr
  window := h.window

theorem elaRecord_lawful {s : State} (h : s.BetweenLines) (data : Bytes) : (elaRecord data s).Lawful := by
  unfold elaRecord
  split
  · rename_i d0 d1
    exact
      { toInPass := (h.toInPass.withHex _).withHex _
        xaddr := (elaOffset_toNat s.config.elaMode d0 d1).symm ▸ elaBase_le s.config.elaMode d0 d1
        window := h.window }
  · exact h.toInPass

theorem recordStep_lawful {s : State} (h : s.BetweenLines) {r : Record} (hr : r.data.length ≤ hexByteCountMax) :
    (recordStep r s).Lawful := by
  unfold recordStep
  split
  · exact dataRecord_lawful h r.address hr
  · exact ⟨(h.toInPass.withHex _).withHex _, h.xaddr, h.window⟩
  · exact h.nextLine
  · exact h.nextLine
  · exact elaRecord_lawful h r.data
  · exact h.nextLine
  · exact h.toInPass

/-- A line that parses to a record has at most 255 data bytes (R84, R142), whatever the line. -/
theorem lineStep_lawful {s : State} (h : s.BetweenLines) (line : Text) : (lineStep line s).Lawful := by
  unfold lineStep
  split
  · exact h.toInPass
  · exact h.nextLine
  · rename_i r hr
    obtain ⟨-, -, hlen⟩ := hexLineParse_record hr
    exact recordStep_lawful h (hlen ▸ Nat.le_of_lt_succ r.byteCount.isLt)

/-- A whole pass, by induction over its lines. -/
theorem passLoop_lawful {s : State} (h : s.BetweenLines) (ls : List Text) : (passLoop ls s).Lawful := by
  induction ls generalizing s with
  | nil => exact h
  | cons l ls ih =>
    have hline := lineStep_lawful h l
    unfold passLoop
    generalize lineStep l s = p at hline ⊢
    cases p with
    | more t => exact ih hline
    | stopped t => exact hline
    | failed d t => exact hline

/-! ### Opening and ending a pass -/

/-- A fresh pass stands between two lines (R146). -/
theorem State.Lawful.openPass {s : State} (h : s.Lawful) (hr : s.rng.refused = false) (c : Consumer) :
    (s.openPass c).BetweenLines where
  toLawful := h.quiet rfl rfl
  refused hr' := absurd (hr.symm.trans hr') Bool.false_ne_true
  xaddr := show (0#32).toNat + 2 ^ 16 ≤ 2 ^ 32 by decide
  window := rfl

/-- The end of a host pass returns the window as the pass left it (R148). -/
theorem closePass_inv {p : PassStep} (h : p.Lawful) : (closePass p).Inv := by
  cases p with
  | more s => exact h.inPass.toLawful.finish h.window
  | stopped s => exact h.inPass.toLawful.finish trivial
  | failed d s => exact h.inPass.toLawful.finish trivial

/-- RANGE_CRC refuses only where the unit was refused (R215, R239). -/
theorem State.InPass.concludeRange_inv {s : State} (h : s.InPass) : s.concludeRange.Inv := by
  unfold State.concludeRange
  split
  · rename_i hr
    exact h.toLawful.finish (h.refused hr)
  · exact h.toLawful.finish trivial

theorem closeRange_inv {p : PassStep} (h : p.Lawful) : (closeRange p).Inv := by
  cases p with
  | more s => exact h.inPass.concludeRange_inv
  | stopped s => exact h.inPass.concludeRange_inv
  | failed d s => exact h.inPass.toLawful.finish trivial

/-! ### Operations of the port -/

/-- What HEX_LINE_PARSE returns: a record as long as its byte count (R84, R142). -/
theorem Parsed.value_lawful {line : Text} {p : Parsed} (h : hexLineParse line = .ok p) (c : Configuration) :
    (Result.ok p.value).Lawful c := by
  cases p with
  | skip => trivial
  | record r =>
    obtain ⟨-, -, hlen⟩ := hexLineParse_record h
    exact hlen

/-- Every operation of the operation port keeps the invariant. -/
theorem exec_inv {i : Instr} (hi : i.isOperation = true) {s : State} (h : s.Inv) :
    ∃ t, exec i s = .next t ∧ t.Inv := by
  have hs : s.Lawful := h.toLawful
  have hbegin : s.begin.Lawful := hs.quiet rfl rfl
  cases i with
  | crcStep b st => exact ⟨_, rfl, h.deliver trivial⟩
  | hexLineParse line =>
    refine ⟨_, rfl, ?_⟩
    split
    · rename_i p hp
      exact h.deliver (Parsed.value_lawful hp _)
    · exact hs.finish trivial
  | frameDecode input =>
    refine ⟨_, rfl, ?_⟩
    split <;> exact hs.finish trivial
  | crcCompute _ | frameEncode _ | requestEncode _ | opselUnknown _ => exact ⟨_, rfl, hs.finish trivial⟩
  | responseDecode r timedOut => exact ⟨_, rfl, (State.decodeResponse_ends _ _ _).inv hbegin⟩
  | readBootInfo | eraseFlash | programFlash _ | readCrc _ _ => exact ⟨_, rfl, hs.exchange_inv _⟩
  | jumpToApp => exact ⟨_, rfl, (hs.sendRequest .jumpToApp).finish trivial⟩
  | hexFileParse src => exact ⟨_, rfl, closePass_inv (passLoop_lawful (hbegin.openPass rfl .host) _)⟩
  | rangeCrc src start stop =>
    have hload : (s.begin.withRng (RngUnit.load s.config.crcInit start stop)).Lawful := hs.quiet rfl rfl
    exact ⟨_, rfl, closeRange_inv (passLoop_lawful (hload.openPass rfl .range) _)⟩
  | _ => exact absurd hi Bool.false_ne_true

end Sys2Proof.Machine
end

section
/-! The statements about the block's state (10_state.md) settled here. -/

namespace Sys2Proof.Machine

open Sys2Proof.Config

/-- Settles O59: an idle step changes nothing, and any other is an operation of the port, each of which keeps the invariant. -/
theorem stepKeepsInvariant : Obligations.StepKeepsInvariant := by
  unfold Obligations.StepKeepsInvariant
  intro s t h hstep
  rcases step_cases s with ⟨-, hidle⟩ | ⟨_, _, i, -, -, hi, hexec⟩ | hfault
  · cases hidle.symm.trans hstep
    exact h
  · obtain ⟨u, hu, hinv⟩ := exec_inv hi h
    cases (hexec.trans hu).symm.trans hstep
    exact hinv
  · cases hfault.symm.trans hstep

/-- Settles O31: the frame of the pass gives the emissions, and the end of the operation is the one outcome after them. -/
theorem hexFileWritesOnlyEmitted : Obligations.HexFileWritesOnlyEmitted := by
  unfold Obligations.HexFileWritesOnlyEmitted
  intro src s
  have frame := passLoop_frame src.toLines (s.begin.openPass .host)
  obtain ⟨es, htrace, hes⟩ := frame.trace
  obtain ⟨o, hclose⟩ := closePass_finish (passLoop src.toLines (s.begin.openPass .host))
  generalize (passLoop src.toLines (s.begin.openPass .host)).state = m at frame htrace hclose
  have hfinish : (m.finish o).trace = s.trace ++ es ++ [.outcome o] := by rw [State.finish_trace, htrace]; rfl
  refine ⟨m.finish o, es, o, congrArg _ hclose, hfinish, hes, fun a ha => ?_, m.finish_atRest o, frame.config,
    congrArg List.tail frame.port, frame.transport⟩
  exact State.imageByte_append (hfinish.trans (List.append_assoc ..)) (by simpa using ha)

/-- Settles O42: the write, the read, and the end that the decode of every answer comes to. -/
theorem exchangeAlwaysCompletes : Obligations.ExchangeAlwaysCompletes := by
  unfold Obligations.ExchangeAlwaysCompletes
  intro i req s hreq hj
  have hsent : (s.begin.sendRequest req).trace = s.trace ++ [.txWrite (wireFrame s.config.crcInit (requestLayout req))] := by
    rw [State.sendRequest_eq, ← frameEncode_request]; rfl
  have hconfig : (s.begin.sendRequest req).config = s.config := rfl
  obtain ⟨o, hdecode, htimeout⟩ := (s.begin.sendRequest req).txRead.decodeResponse_finish
    (s.begin.sendRequest req).txRead.ses.rx (s.begin.sendRequest req).txRead.ses.timedOut
  refine ⟨_, _, _, o, (exec_sessionRequest hreq hj s).trans (congrArg _ hdecode), (s.begin.sendRequest req).txRead_length,
    ?_, htimeout⟩
  simp only [State.finish_trace, State.txRead_trace, State.txRead_ses, hsent, hconfig, List.append_assoc, List.cons_append,
    List.nil_append]

/-- Settles O54: the next state is the one each instruction's meaning answers, with the configuration kept. -/
theorem configurationIsConstant : Obligations.ConfigurationIsConstant := by
  unfold Obligations.ConfigurationIsConstant
  intro i s t h
  obtain ⟨u, hu, hconfig⟩ := exec_config i s
  cases hu.symm.trans h
  exact hconfig

/-- Settles O49: the step by the decoded presentation, and what the port decodes to. -/
theorem stepRunsPresentedOperation : Obligations.StepRunsPresentedOperation := by
  unfold Obligations.StepRunsPresentedOperation
  exact ⟨fun s p ps i hport hdecode => ⟨step_port hport hdecode, decodePort_wellFormed hdecode⟩, fun s => step_idle⟩

end Sys2Proof.Machine
end

section
/-! The image space (20_memory.md): what the emissions of a Data record write into it, which instructions leave it alone, and
which operations use no port at all (R50, R52, R58). -/

namespace Sys2Proof.Machine

open Sys2Proof.Config

/-! ### The image after emissions to the host (R52) -/

theorem emissionsTo_emitted_cons (c : Consumer) (a : Nat) (v : Byte) (vs : Bytes) :
    emissionsTo c (emitted c a (v :: vs)) = (a, v) :: emissionsTo c (emitted c (a + 1) vs) := by
  simp [emitted]

/-- Every address a Data record emits lies in its span (R150). -/
theorem emissionsTo_emitted_span {c : Consumer} {a : Nat} {data : Bytes} {w : Nat × Byte}
    (h : w ∈ emissionsTo c (emitted c a data)) : a ≤ w.1 ∧ w.1 < a + data.length := by
  induction data generalizing a with
  | nil => cases h
  | cons v vs ih =>
    rw [emissionsTo_emitted_cons] at h
    rw [List.length_cons]
    rcases List.mem_cons.1 h with rfl | h
    · omega
    · have := ih h
      omega

/-- A Data record's bytes read back, whatever was written before: each address of the span is emitted once. -/
theorem imageOf_read_emitted (ws : List (Nat × Byte)) (a : Nat) (data : Bytes) (i : Nat) (h : i < data.length) :
    (imageOf (ws ++ emissionsTo .host (emitted .host a data))).read (a + i) = data[i] := by
  induction data generalizing ws a i with
  | nil => exact absurd h (Nat.not_lt_zero i)
  | cons v vs ih =>
    rw [emissionsTo_emitted_cons, ← List.singleton_append, ← List.append_assoc]
    cases i with
    | zero =>
      rw [imageOf_read_append_other, imageOf_read_append]
      · simp
      · intro w hw
        have := (emissionsTo_emitted_span hw).1
        omega
    | succ i =>
      rw [show a + (i + 1) = a + 1 + i by omega]
      exact ih _ _ _ _

/-- A Data record of a host pass whose every byte is answered Continue shows its emissions and nothing else (R150). -/
theorem dataRecord_host_cont {s : State} {address : U16} {data : Bytes} {rest : List EmitAnswer}
    (hc : s.hex.consumer = .host) (he : s.hex.eofSeen = false)
    (ha : s.answers = List.replicate data.length .cont ++ rest) :
    ∃ t, dataRecord address data s = .more t ∧
      t.trace = s.trace ++ emitted .host (s.effAddr address) data := by
  have hall := emitAll_host_cont (s := s.withHex (s.hex.noteStart (s.effAddr address))) (a := s.effAddr address) hc ha
  refine ⟨_, by simp only [dataRecord, he, hall]; rfl, rfl⟩

/-- Settles O21: the record's events are its emissions, which write its bytes and no byte outside its span. -/
theorem dataRecordWritesImage : Obligations.DataRecordWritesImage := by
  unfold Obligations.DataRecordWritesImage
  intro s address data rest hc he ha
  obtain ⟨t, hrecord, htrace⟩ := dataRecord_host_cont (address := address) hc he ha
  refine ⟨t, by simp only [exec, execRecData, hrecord, PassStep.settle], fun i hi => ?_, fun a hout => ?_⟩
  · simp only [State.imageByte, State.image, htrace, emissionsTo_append]
    exact imageOf_read_emitted _ _ data i hi
  · refine State.imageByte_append htrace fun w hw hwa => ?_
    have hspan := emissionsTo_emitted_span hw
    simp only [State.effAddr] at hspan
    omega

/-! ### What leaves the image as it was (R50, R52) -/

/-- The image is a view of the emissions to the host, so any other events leave it alone. -/
theorem State.image_append {s t : State} {es : List Event} (h : t.trace = s.trace ++ es)
    (hes : emissionsTo .host es = []) : t.image = s.image := by
  simp [State.image, h, hes]

theorem State.image_deliver (s : State) (r : Result) : (s.deliver r).image = s.image :=
  State.image_append (s.deliver_trace r) rfl

theorem State.EndsLawfully.image {s t : State} (h : s.EndsLawfully t) : t.image = s.image := by
  obtain ⟨o, rfl, -⟩ := h
  exact s.image_finish o

/-- A request is an event of the transport (R31, R170). -/
theorem State.sendRequest_image (s : State) (req : Request) : (s.sendRequest req).image = s.image := by
  rw [State.sendRequest_eq]
  exact State.image_append rfl rfl

theorem State.txRead_image (s : State) : s.txRead.image = s.image := State.image_append s.txRead_trace rfl

theorem State.exchange_image (s : State) (req : Request) : (s.exchange req).image = s.image :=
  calc (s.exchange req).image
      = (s.begin.sendRequest req).txRead.image := (State.decodeResponse_ends _ _ _).image
    _ = (s.begin.sendRequest req).image := State.txRead_image _
    _ = s.image := s.begin.sendRequest_image req

theorem State.afterSymbol_image (s : State) (r : Except FramingDetail FrmUnit) : (s.afterSymbol r).image = s.image := by
  unfold State.afterSymbol
  split
  · rfl
  · exact s.image_finish _

/-- A range pass emits to the range-CRC unit only (R52, R210). -/
theorem PassFrame.image {s t : State} (h : PassFrame s t) (hc : s.hex.consumer = .range) : t.image = s.image := by
  obtain ⟨es, htrace, hes⟩ := h.trace
  refine State.image_append htrace (List.filterMap_eq_nil_iff.2 fun e he => ?_)
  obtain ⟨a, v, ans, rfl⟩ := hes e he
  rw [hc]
  rfl

/-- A record by itself changes the image by its emissions only: ending the operation shows an outcome. -/
theorem PassStep.settle_image (p : PassStep) : p.settle.image = p.state.image := by
  rcases p.settle_cases with h | ⟨o, h⟩
  · rw [h]
  · rw [h, State.image_finish]

/-- Every instruction but HEX_FILE_PARSE and a Data record of a host pass leaves the image as it was. -/
theorem exec_image {i : Instr} {s : State} (hfile : ∀ src, i ≠ .hexFileParse src)
    (hdata : ∀ address data, i = .recData address data → s.hex.consumer = .range) :
    ∃ t, exec i s = .next t ∧ t.image = s.image := by
  cases i with
  | crcStep b st => exact ⟨_, rfl, s.image_deliver _⟩
  | crcCompute _ | frameEncode _ | requestEncode _ | opselUnknown _ | rspUnrecognized _ =>
    exact ⟨_, rfl, s.image_finish _⟩
  | frameDecode input =>
    refine ⟨_, rfl, ?_⟩
    split <;> exact s.image_finish _
  | hexLineParse line =>
    refine ⟨_, rfl, ?_⟩
    split
    · exact s.image_deliver _
    · exact s.image_finish _
  | hexFileParse src => exact absurd rfl (hfile src)
  | responseDecode r timedOut => exact ⟨_, rfl, (s.begin.decodeResponse_ends r timedOut).image⟩
  | readBootInfo | eraseFlash | programFlash _ | readCrc _ _ => exact ⟨_, rfl, s.exchange_image _⟩
  | jumpToApp => exact ⟨_, rfl, (State.image_finish _ _).trans (s.begin.sendRequest_image _)⟩
  | rangeCrc src start stop =>
    refine ⟨_, rfl, ?_⟩
    obtain ⟨o, ho⟩ := closeRange_finish (passLoop src.toLines (s.begin.openRange start stop))
    rw [ho, State.image_finish]
    exact (passLoop_frame src.toLines (s.begin.openRange start stop)).image rfl
  | reqReadBootInfo | reqEraseFlash | reqProgramFlash _ | reqReadCrc _ _ | reqJumpToApp =>
    exact ⟨_, rfl, s.sendRequest_image _⟩
  | rspReadBootInfo rest => exact ⟨_, rfl, (s.takeBootInfo_ends rest).image⟩
  | rspReadCrc rest => exact ⟨_, rfl, (s.takeCrc_ends rest).image⟩
  | rspEraseFlash rest | rspProgramFlash rest | rspJumpToApp rest => exact ⟨_, rfl, (s.takeBare_ends _ rest).image⟩
  | recData address data =>
    exact ⟨_, rfl, (PassStep.settle_image _).trans ((dataRecord_frame address data s).image (hdata _ _ rfl))⟩
  | recExtLinearAddr address data =>
    refine ⟨_, rfl, (PassStep.settle_image _).trans ?_⟩
    unfold elaRecord
    split <;> rfl
  | recEndOfFile _ _ | recExtSegmentAddr _ _ | recStartSegmentAddr _ _ | recStartLinearAddr _ _ => exact ⟨_, rfl, rfl⟩
  | recUnknown _ _ _ => exact ⟨_, rfl, s.image_finish _⟩
  | frameStart | frameEnd | frameEscape | frameLiteral _ => exact ⟨_, rfl, s.afterSymbol_image _⟩

/-- Settles O55: `exec` answers one next state, and its image is the old one. -/
theorem imageUnchangedElsewhere : Obligations.ImageUnchangedElsewhere := by
  unfold Obligations.ImageUnchangedElsewhere
  intro i s t hi h a
  obtain ⟨u, hu, himage⟩ := exec_image (i := i) (s := s) (fun src e => by subst e; exact hi)
    (fun address data e => by subst e; exact hi)
  cases hu.symm.trans h
  rw [State.imageByte, State.imageByte, himage]

/-! ### The pure operations (R58) -/

/-- What R58 asks of an operation's end: one event, the outcome, the presentation served, and no answer used up. -/
def State.ReturnsPurely (s : State) (r : Host.Outcome State Fault Refusal) : Prop :=
  ∃ (t : State) (o : Result), r = .next t ∧ t.trace = s.trace ++ [.outcome o] ∧ t.port = s.port.tail ∧
    t.answers = s.answers ∧ t.transport = s.transport ∧ t.draws = s.draws

/-- Delivering an outcome shows it and uses no answer (R35). -/
theorem State.ReturnsPurely.deliver (s : State) (o : Result) : s.ReturnsPurely (.next (s.deliver o)) :=
  ⟨_, o, rfl, rfl, rfl, rfl, rfl, rfl⟩

/-- Discarding the unit registers shows nothing and uses no answer (R34, R236). -/
theorem State.ReturnsPurely.finish (s : State) (o : Result) : s.ReturnsPurely (.next (s.finish o)) :=
  ⟨_, o, rfl, rfl, rfl, rfl, rfl, rfl⟩

/-- Settles O57: each of the seven delivers its outcome, or discards the unit registers and delivers it. -/
theorem pureOperationsUseNoPort : Obligations.PureOperationsUseNoPort := by
  unfold Obligations.PureOperationsUseNoPort
  intro i s hi
  change s.ReturnsPurely (exec i s)
  cases i with
  | crcStep b st => exact .deliver s _
  | crcCompute _ | frameEncode _ | requestEncode _ => exact .finish s _
  | frameDecode input =>
    simp only [exec, execFrameDecode]
    split <;> exact .finish s _
  | hexLineParse line =>
    simp only [exec, execHexLineParse]
    split
    · exact .deliver s _
    · exact .finish s _
  | responseDecode r timedOut =>
    obtain ⟨o, ho, -⟩ := s.begin.decodeResponse_finish r timedOut
    simp only [exec, execResponseDecode, ho]
    exact .finish s o
  | _ => exact hi.elim

end Sys2Proof.Machine
end

section
/-! Decoding what the encoder writes (R99), level by level: the operation port (R97), request and response bodies (R75, R76),
record lines (R84) and frame symbols (R71). -/

namespace Sys2Proof

open Sys2Proof.Machine Sys2Proof.Config

/-! ### What each level's decoder answers -/

theorem opselAssigned_eq_false_iff (code : Byte) : opselAssigned code = false ↔ code.toNat = 0 ∨ 15 ≤ code.toNat := by
  rw [opselAssigned, Bool.and_eq_false_iff, decide_eq_false_iff_not, decide_eq_false_iff_not]
  omega

theorem opcodeKnown_eq_false_iff (op : Byte) : opcodeKnown op = false ↔ op.toNat = 0 ∨ 6 ≤ op.toNat := by
  rw [opcodeKnown, Bool.and_eq_false_iff, decide_eq_false_iff_not, decide_eq_false_iff_not]
  omega

/-- An unassigned OPSEL selects no operation, whatever stands beside it (R97; log 26). -/
theorem decodePort_unassigned {code : Byte} (h : opselAssigned code = false) (ops : Operands) :
    decodePort ⟨code, ops⟩ = .ok (.opselUnknown code) := by
  rw [opselAssigned_eq_false_iff] at h
  unfold decodePort
  dsimp only
  split
  case h_15 => rfl
  all_goals omega

/-- A ReadCrc request's fields read back (R75, R78). -/
theorem decodeRequest_readCrc (address length : U32) :
    decodeRequest (0x04#8 :: (le32 address ++ le32 length)) = .ok (.reqReadCrc address length) := by
  have h : decodeRequest (0x04#8 :: (le32 address ++ le32 length)) = .ok (.reqReadCrc (ofLe32 _ _ _ _) (ofLe32 _ _ _ _)) := rfl
  rw [h, ofLe32_le32, ofLe32_le32]

/-- A response body whose first byte names no operation (R77). -/
theorem decodeResponseBody_unknown {op : Byte} (h : opcodeKnown op = false) (rest : Bytes) :
    decodeResponseBody (op :: rest) = .rspUnrecognized (op :: rest) := by
  rw [opcodeKnown_eq_false_iff] at h
  unfold decodeResponseBody
  dsimp only
  split
  case h_6 => rfl
  all_goals omega

/-- A record of a type without a name (R86, R156). -/
theorem decodeRecord_unknown {r : Record} (h : recordTypeKnown r.recordType = false) :
    decodeRecord r = .recUnknown r.recordType r.address r.data := by
  have htype : 5 < r.recordType.toNat := Nat.lt_of_not_le (of_decide_eq_false h)
  unfold decodeRecord
  split
  case h_7 => rfl
  all_goals omega

/-- A byte with no meaning of its own in a frame stands for itself (R71). -/
theorem decodeSymbol_literal {b : Byte} (h : isSpecial b = false) : decodeSymbol b = .frameLiteral b := by
  have hb : ¬ (b = startByte ∨ b = endByte ∨ b = escapeByte) := by rw [← isSpecial_iff, h]; decide
  obtain ⟨hstart, hend, hesc⟩ := not_or.1 hb |>.imp_right not_or.1
  rw [decodeSymbol, if_neg hstart, if_neg hend, if_neg hesc]

/-! ### The statements -/

/-- Settles O50, by cases over the rows of the opcode table. A row with a code of its own reads back by the decoder's arm for that
code; a record line by what the line parser answers for the encoder's text; a row for the codes without a name by its
well-formedness. -/
theorem decodeOfEncode : Obligations.DecodeOfEncode := by
  intro i h
  cases i with
  | opselUnknown code => exact decodePort_unassigned (Bool.eq_false_of_not_eq_true' h) .none
  | reqReadCrc address length => exact decodeRequest_readCrc address length
  | rspUnrecognized body =>
    cases body with
    | nil => rfl
    | cons op rest => exact congrArg Except.ok (decodeResponseBody_unknown (Bool.eq_false_of_not_eq_true' h) rest)
  | recData address data => exact decode_encodeRecord 0x00#8 address data h
  | recEndOfFile address data => exact decode_encodeRecord 0x01#8 address data h
  | recExtSegmentAddr address data => exact decode_encodeRecord 0x02#8 address data h
  | recStartSegmentAddr address data => exact decode_encodeRecord 0x03#8 address data h
  | recExtLinearAddr address data => exact decode_encodeRecord 0x04#8 address data h
  | recStartLinearAddr address data => exact decode_encodeRecord 0x05#8 address data h
  | recUnknown tt address data =>
    obtain ⟨htype, hdata⟩ := Bool.and_eq_true_iff.1 h
    exact (decode_encodeRecord tt address data hdata).trans
      (congrArg Except.ok (decodeRecord_unknown (Bool.eq_false_of_not_eq_true' htype)))
  | frameLiteral b => exact congrArg Except.ok (decodeSymbol_literal (Bool.eq_false_of_not_eq_true' h))
  | _ => rfl

/-- Settles O51: each word evaluates to its instruction. -/
theorem writtenWordsDecode : Obligations.WrittenWordsDecode :=
  ⟨rfl, rfl, rfl, rfl, rfl, rfl⟩

/-- Settles O52: the decoder's last arm, and that arm's meaning. -/
theorem unknownOpselRefused : Obligations.UnknownOpselRefused := fun code ops _ h =>
  ⟨decodePort_unassigned ((opselAssigned_eq_false_iff code).2 h) ops, rfl⟩

end Sys2Proof
end

section
/-! Frames (R70 to R72): how long an encoded frame is, and what FRAME_DECODE answers for every input (R123 to R125), by a reading
of the input as the interior of a frame and what ends it. -/

namespace Sys2Proof.Machine

open Sys2Proof.Config

/-! ### The two operations -/

theorem exec_frameEncode (p : Bytes) (s : State) :
    exec (.frameEncode p) s = .next (s.finish (.ok (.frame (startByte :: stuffed p ++ [endByte])))) := by
  rw [← frameEncode_eq]; rfl

theorem exec_frameDecode_ok {d : Bytes} {f : FrmUnit} (h : FrmUnit.run d = .ok f) (s : State) :
    exec (.frameDecode d) s = .next (s.finish (.ok (.decoded f.out f.rem))) := by
  change execFrameDecode d s = _
  rw [execFrameDecode, h]; rfl

theorem exec_frameDecode_error {d : Bytes} {e : FramingDetail} (h : FrmUnit.run d = .error e) (s : State) :
    exec (.frameDecode d) s = .next (s.raise (.framing e)) := by
  change execFrameDecode d s = _
  rw [execFrameDecode, h]; rfl

/-! ### The length of a frame (R72) -/

theorem stuffed_length (p : Bytes) : (stuffed p).length = p.length + p.countP isSpecial := by
  induction p with
  | nil => rfl
  | cons b p ih =>
    have hcons : (stuffed (b :: p)).length = (if isSpecial b then 2 else 1) + (stuffed p).length := by
      rw [stuffed, List.flatMap_cons, List.length_append, apply_ite List.length]; rfl
    rw [hcons, ih, List.countP_cons, List.length_cons]
    split <;> omega

/-- Settles O8: START, END, and the stuffed payload between them. -/
theorem frameLength : Obligations.FrameLength := fun p s =>
  ⟨startByte :: stuffed p ++ [endByte], exec_frameEncode p s, by
    have h : (fun b => b == 0x01#8 || b == 0x04#8 || b == 0x10#8) = isSpecial := rfl
    rw [h, List.length_append, List.length_cons, stuffed_length, List.length_singleton]
    omega⟩

/-! ### Frames of the grammar (R70) -/

/-- FRAME_DECODE of a frame of the grammar (R124, R125). -/
theorem exec_frameDecode_frame {xs : List FrameByte} (h : ∀ x ∈ xs, x.ok = true) (t : Bytes) (s : State) :
    exec (.frameDecode (startByte :: renderFrame xs ++ endByte :: t)) s =
      .next (s.finish (.ok (.decoded (xs.map FrameByte.value) t))) := by
  obtain ⟨f, hrun, hout, hrem⟩ := FrmUnit.run_frame xs h t
  rw [exec_frameDecode_ok hrun, hout, hrem]

/-- Settles O10. The key fact is `FrmUnit.run_frame`, by induction on the interior. -/
theorem frameDecodeAcceptsGrammar : Obligations.FrameDecodeAcceptsGrammar := fun _ t s h =>
  exec_frameDecode_frame h t s

/-! ### Inputs that are no frame (R123, R124) -/

/-- Before a leading START nothing but START is taken (R124). -/
theorem FrmUnit.take_expectStart {f : FrmUnit} (hf : f.phase = .expectStart) {c : Byte} (h : c ≠ startByte) :
    f.take c = .error .missingStart := by
  rw [FrmUnit.take, if_neg h]
  split_ifs <;> simp [FrmUnit.takeEnd, FrmUnit.takeEscape, FrmUnit.takeLiteral, hf]

theorem FrmUnit.run_missingStart {d : Bytes} (h : d.head? ≠ some startByte) : FrmUnit.run d = .error .missingStart := by
  cases d with
  | nil => rfl
  | cons c cs =>
    have hc : c ≠ startByte := fun hc => h (congrArg some hc)
    rw [FrmUnit.run, FrmUnit.scan, if_neg nofun, FrmUnit.take_expectStart rfl hc]

/-- The input runs out inside the frame (R124). -/
theorem FrmUnit.run_interior {xs : List FrameByte} (h : ∀ x ∈ xs, x.ok = true) :
    FrmUnit.run (startByte :: renderFrame xs) = .error .missingEnd := by
  rw [FrmUnit.run_start, ← List.append_nil (renderFrame xs), FrmUnit.scan_render xs h _ rfl rfl]; rfl

/-- The input runs out after an ESCAPE inside the frame (R124). -/
theorem FrmUnit.run_pending {xs : List FrameByte} (h : ∀ x ∈ xs, x.ok = true) :
    FrmUnit.run (startByte :: renderFrame xs ++ [escapeByte]) = .error .missingEnd := by
  rw [List.cons_append, FrmUnit.run_start, FrmUnit.scan_render xs h _ rfl rfl, FrmUnit.scan, if_neg nofun,
    FrmUnit.take_prefix rfl rfl]
  rfl

/-! ### Every input read as an interior and what ends it -/

/-- What stands after a leading START is the interior `xs` and then nothing, a pending ESCAPE, or an END and a rest (R70). -/
inductive ReadsAs (xs : List FrameByte) : Bytes → Prop where
  | interior : ReadsAs xs (renderFrame xs)
  | pending : ReadsAs xs (renderFrame xs ++ [escapeByte])
  | ended (t : Bytes) : ReadsAs xs (renderFrame xs ++ endByte :: t)

theorem renderFrame_cons (x : FrameByte) (xs : List FrameByte) :
    renderFrame (x :: xs) = (if x.escaped then [escapeByte, x.value] else [x.value]) ++ renderFrame xs := by
  rw [renderFrame, List.flatMap_cons]; rfl

theorem ReadsAs.cons (x : FrameByte) {xs : List FrameByte} {d : Bytes} (h : ReadsAs xs d) :
    ReadsAs (x :: xs) ((if x.escaped then [escapeByte, x.value] else [x.value]) ++ d) := by
  cases h with
  | interior => rw [← renderFrame_cons]; exact .interior
  | pending => rw [← List.append_assoc, ← renderFrame_cons]; exact .pending
  | ended t => rw [← List.append_assoc, ← renderFrame_cons]; exact .ended t

/-- Every byte sequence reads as an interior and what ends it: an END ends it, an ESCAPE takes the byte after it along, any other
byte stands bare. -/
theorem exists_readsAs (d : Bytes) : ∃ xs : List FrameByte, (∀ x ∈ xs, x.ok = true) ∧ ReadsAs xs d := by
  match d with
  | [] => exact ⟨[], List.forall_mem_nil _, .interior⟩
  | c :: cs =>
    by_cases hend : c = endByte
    · exact ⟨[], List.forall_mem_nil _, hend ▸ .ended cs⟩
    by_cases hesc : c = escapeByte
    · subst hesc
      match cs with
      | [] => exact ⟨[], List.forall_mem_nil _, .pending⟩
      | v :: t =>
        obtain ⟨xs, hok, hread⟩ := exists_readsAs t
        exact ⟨⟨true, v⟩ :: xs, List.forall_mem_cons.2 ⟨rfl, hok⟩, hread.cons ⟨true, v⟩⟩
    · obtain ⟨xs, hok, hread⟩ := exists_readsAs cs
      have hc : FrameByte.ok ⟨false, c⟩ = true := by simp [FrameByte.ok, hend, hesc]
      exact ⟨⟨false, c⟩ :: xs, List.forall_mem_cons.2 ⟨hc, hok⟩, hread.cons ⟨false, c⟩⟩

/-- Settles O12, by cases on how the input after START reads. -/
theorem frameDecodeAnswersEveryInput : Obligations.FrameDecodeAnswersEveryInput := by
  intro d s
  split_ifs with h
  · exact exec_frameDecode_error (FrmUnit.run_missingStart h) s
  · obtain ⟨cs, rfl⟩ := List.head?_eq_some_iff.1 (not_not.1 h)
    obtain ⟨xs, hok, hread⟩ := exists_readsAs cs
    refine ⟨xs, hok, ?_⟩
    cases hread with
    | interior => exact .inl ⟨.inl rfl, exec_frameDecode_error (FrmUnit.run_interior hok) s⟩
    | pending => exact .inl ⟨.inr rfl, exec_frameDecode_error (FrmUnit.run_pending hok) s⟩
    | ended t => exact .inr ⟨t, rfl, exec_frameDecode_frame hok t s⟩

/-! ### The scan and the symbols (R71, R124) -/

/-- The meaning of a byte's symbol is the byte's row of R124. -/
theorem exec_decodeSymbol (c : Byte) (s : State) : exec (decodeSymbol c) s = .next (s.afterSymbol (s.frm.take c)) := by
  unfold decodeSymbol FrmUnit.take
  split_ifs <;> rfl

/-- Settles O15, by cases on the byte's row: it moves the registers or raises. -/
theorem frameScanStepsBySymbol : Obligations.FrameScanStepsBySymbol := by
  intro s c cs h
  rw [exec_decodeSymbol, FrmUnit.scan, if_neg h]
  cases s.frm.take c with
  | ok f => exact .inl ⟨f, rfl, rfl⟩
  | error d => exact .inr ⟨d, rfl, rfl⟩

end Sys2Proof.Machine
end

section
/-! Hex input: the lines of a byte stream (R82), and the records a pass runs (R86, R146, R147). -/

namespace Sys2Proof.Machine

open Sys2Proof.Config

/-! ### Splitting a stream at LF (R82) -/

/-- A segment up to an LF is a line. -/
theorem splitLines_segment {l : Text} (h : lineFeed ∉ l) (cur : Text) (rest : Bytes) :
    splitLines cur (l ++ lineFeed :: rest) = (cur ++ l) :: splitLines [] rest := by
  induction l generalizing cur with
  | nil => rw [List.nil_append, splitLines, if_pos rfl, List.append_nil]
  | cons b l ih =>
    obtain ⟨hb, hl⟩ := not_or.1 (List.mem_cons.not.1 h)
    rw [List.cons_append, splitLines, if_neg (Ne.symm hb), ih hl, List.append_assoc, List.singleton_append]

/-- A segment with no LF after it is a line if it holds a character (log 17). -/
theorem splitLines_final {l : Text} (h : lineFeed ∉ l) (cur : Text) :
    splitLines cur l = if (cur ++ l).isEmpty then [] else [cur ++ l] := by
  induction l generalizing cur with
  | nil => rw [splitLines, List.append_nil]
  | cons b l ih =>
    obtain ⟨hb, hl⟩ := not_or.1 (List.mem_cons.not.1 h)
    rw [splitLines, if_neg (Ne.symm hb), ih hl, List.append_assoc, List.singleton_append]

/-- Lines with an LF after each come off the front of a stream as they are. -/
theorem splitLines_terminated {ls : List Text} (h : ∀ l ∈ ls, lineFeed ∉ l) (rest : Bytes) :
    splitLines [] ((ls.flatMap fun l => l ++ [lineFeed]) ++ rest) = ls ++ splitLines [] rest := by
  induction ls with
  | nil => rfl
  | cons l ls ih =>
    obtain ⟨hl, hls⟩ := List.forall_mem_cons.1 h
    rw [List.flatMap_cons, List.append_assoc, List.append_assoc, List.singleton_append, splitLines_segment hl, ih hls]
    rfl

theorem toLines_stream_terminated {ls : List Text} (h : ∀ l ∈ ls, lineFeed ∉ l) :
    (HexText.stream (ls.flatMap fun l => l ++ [lineFeed])).toLines = ls := by
  simpa [HexText.toLines, splitLines] using splitLines_terminated h []

theorem toLines_stream_final {ls : List Text} (h : ∀ l ∈ ls, lineFeed ∉ l) {final : Text} (hf : lineFeed ∉ final)
    (hne : final ≠ []) :
    (HexText.stream ((ls.flatMap fun l => l ++ [lineFeed]) ++ final)).toLines = ls ++ [final] := by
  rw [HexText.toLines, splitLines_terminated h, splitLines_final hf, List.nil_append,
    if_neg (fun he => hne (List.isEmpty_iff.1 he))]

/-- HEX_FILE_PARSE sees a hex input through its lines only (R82, R146). -/
theorem exec_hexFileParse_congr {src src' : HexText} (h : src.toLines = src'.toLines) (s : State) :
    exec (.hexFileParse src) s = exec (.hexFileParse src') s :=
  congrArg (fun ls => Host.Outcome.next (closePass (passLoop ls (s.begin.openPass .host)))) h

/-- RANGE_CRC sees a hex input through its lines only (R82, R210). -/
theorem exec_rangeCrc_congr {src src' : HexText} (h : src.toLines = src'.toLines) (start stop : Nat) (s : State) :
    exec (.rangeCrc src start stop) s = exec (.rangeCrc src' start stop) s :=
  congrArg (fun ls => Host.Outcome.next (closeRange (passLoop ls (s.begin.openRange start stop)))) h

/-- Settles O32: both operations see their hex input through its lines, and the stream's lines are the given ones. -/
theorem streamIsItsLines : Obligations.StreamIsItsLines := by
  intro ls final start stop s hls hfinal hne
  have hterm := toLines_stream_terminated hls
  have htail := toLines_stream_final hls hfinal hne
  exact ⟨exec_hexFileParse_congr hterm s, exec_hexFileParse_congr htail s,
    exec_rangeCrc_congr hterm start stop s, exec_rangeCrc_congr htail start stop s⟩

/-! ### Records of a pass (R86, R147) -/

/-- The meaning of a record's instruction is the pass's dispatch on its type. -/
theorem exec_decodeRecord (r : Record) (s : State) : exec (decodeRecord r) s = .next (recordStep r s).settle := by
  unfold decodeRecord recordStep
  generalize r.recordType.toNat = tt
  match tt with
  | 0 | 1 | 2 | 3 | 4 | 5 => rfl
  | _ + 6 => rfl

/-- Settles O26: the decoder and the pass dispatch on the same record. -/
theorem passRunsDecodedRecords : Obligations.PassRunsDecodedRecords := by
  intro line r s h
  have hdecode : decodeLine line = .ok (decodeRecord r) := by rw [decodeLine, h]
  have hstep : lineStep line s = recordStep r s := by rw [lineStep, h]
  exact ⟨hdecode, hstep ▸ exec_decodeRecord r s⟩

end Sys2Proof.Machine
end

section
/-! Messages on the wire (R73 to R79): a response read back through its frame and CRC, and the spec's worked request. -/

namespace Sys2Proof.Machine

open Sys2Proof.Config

/-- The spec's frame of a body is the stuffed message that the engine's CRC makes (R73, R171). -/
theorem wireFrame_eq_message (crcInit : U16) (body : Bytes) :
    wireFrame crcInit body = startByte :: stuffed (message crcInit body) ++ [endByte] := by
  rw [wireFrame, message_eq, crcCompute_eq_bitCrc]

/-- RESPONSE_DECODE of a framed, CRC-correct body is the dispatch on that body, whatever follows the frame (R176, R177). -/
theorem exec_responseDecode_wireFrame (body pad : Bytes) (s : State) :
    exec (.responseDecode (wireFrame s.config.crcInit body ++ pad) false) s = .next (s.respond body) := by
  obtain ⟨f, hf⟩ := s.begin.decodeResponse_frame (message s.config.crcInit body) pad
  have hcheck := (s.begin.withFrm f).checkMessage_message body
  have hregs := State.respond_congr (s := (s.begin.withFrm f).scanCrc body) (t := s) (fun _ => rfl) body
  rw [wireFrame_eq_message, List.append_assoc, List.singleton_append]
  exact congrArg Host.Outcome.next (hf.trans (hcheck.trans hregs))

/-- The dispatch reads each response value back from its body (R76, R179). -/
theorem State.respond_responseLayout (s : State) (v : Response) :
    s.respond (responseLayout v) = s.finish (.ok (.response v)) := by
  cases v with
  | readBootInfo version =>
    exact congrArg (fun v => s.finish (.ok (.response (.readBootInfo v)))) (ofLe16_le16Nat version)
  | readCrc crc => exact congrArg (fun v => s.finish (.ok (.response (.readCrc v)))) (ofLe16_le16Nat crc)
  | eraseFlash => rfl
  | programFlash => rfl
  | jumpToApp => rfl

/-- Settles O36: the frame and the CRC come off, then the body reads back. -/
theorem responseRoundTrip : Obligations.ResponseRoundTrip := by
  intro v pad s
  rw [exec_responseDecode_wireFrame, State.respond_responseLayout]

/-- REQUEST_ENCODE answers the frame of the request's layout (R75, R172). -/
theorem exec_requestEncode (req : Request) (s : State) :
    exec (.requestEncode req) s = .next (s.finish (.ok (.frame (wireFrame s.config.crcInit (requestLayout req))))) := by
  change execRequestEncode req s = _
  rw [execRequestEncode, State.scanRequest_eq, ← frameEncode_request]; rfl

/-- Settles O34: the body, its CRC and the frame evaluated. -/
theorem readCrcWorkedEncoding : Obligations.ReadCrcWorkedEncoding := by
  have hbody : requestLayout (.readCrc 0x1000#32 0x100#32) =
      [0x04#8, 0x00#8, 0x10#8, 0x00#8, 0x00#8, 0x00#8, 0x01#8, 0x00#8, 0x00#8] := by decide
  have hcrc : bitCrc 0xFFFF#16 [0x04#8, 0x00#8, 0x10#8, 0x00#8, 0x00#8, 0x00#8, 0x01#8, 0x00#8, 0x00#8] = 0x84D6#16 := by
    rw [← crcCompute_eq_bitCrc]; decide
  refine ⟨hbody, hcrc, ?_, fun s hs => ?_⟩
  · rw [message_eq, crcCompute_eq_bitCrc, hbody, hcrc]; decide
  · rw [exec_requestEncode, hs, wireFrame, hbody, hcrc]; rfl

end Sys2Proof.Machine
end

section
/-! The CRC engine's operations (R100 to R107): their outcomes, and that the byte step loses no bit of its operands (R103). -/

namespace Sys2Proof.Machine

open Sys2Proof.Config

/-! ### No bit is lost (R103) -/

/-- The polynomial is odd, so a turn of the bitwise loop moves the bit it shifts out to the bottom (R102). -/
theorem bitShift_getLsbD_zero (x : U16) : (bitShift x).getLsbD 0 = x.getLsbD 15 := by
  unfold bitShift
  split
  case isTrue htop => simp [crcPoly, htop]
  case isFalse htop => simpa using htop

/-- The bit that comes out at the bottom says whether the polynomial was added, and the other fifteen bits stand above it. -/
theorem bitShift_injective : Function.Injective bitShift := by
  intro x y h
  have htop : x.getLsbD 15 = y.getLsbD 15 := by rw [← bitShift_getLsbD_zero, h, bitShift_getLsbD_zero]
  have hshift : x <<< 1 = y <<< 1 := by
    unfold bitShift at h
    rw [htop] at h
    split at h
    case isTrue => exact (BitVec.xor_left_inj _).1 h
    case isFalse => exact h
  apply BitVec.eq_of_getLsbD_eq
  intro k hk
  obtain hlast | hlow : k = 15 ∨ k + 1 < 16 := by omega
  · rw [hlast, htop]
  · simpa [hlow, hk] using congrArg (·.getLsbD (k + 1)) hshift

/-- The high half of a word holds a byte without loss. -/
theorem zeroExtend_shiftLeft_injective : Function.Injective fun b : Byte => b.zeroExtend 16 <<< 8 := by
  intro b b' h
  apply BitVec.eq_of_getLsbD_eq
  intro k hk
  simpa [hk, show k + 8 < 16 by omega, show k < 16 by omega] using congrArg (·.getLsbD (k + 8)) h

/-- Two byte steps agree only where the bitwise loop starts from the same word (R102). -/
theorem crcStep_eq_iff (b b' : Byte) (st st' : U16) :
    crcStep b st = crcStep b' st' ↔ st ^^^ b.zeroExtend 16 <<< 8 = st' ^^^ b'.zeroExtend 16 <<< 8 := by
  rw [crcStep_eq_bitStep, crcStep_eq_bitStep]
  exact (bitShift_injective.iterate 8).eq_iff

theorem crcStep_byte_injective {b b' : Byte} {st : U16} (h : crcStep b st = crcStep b' st) : b = b' :=
  zeroExtend_shiftLeft_injective ((BitVec.xor_right_inj _).1 ((crcStep_eq_iff b b' st st).1 h))

theorem crcStep_state_injective {b : Byte} {st st' : U16} (h : crcStep b st = crcStep b st') : st = st' :=
  (BitVec.xor_left_inj _).1 ((crcStep_eq_iff b b st st').1 h)

/-! ### What the two operations answer (R103, R104) -/

/-- From state 0 a nibble step is the table entry (R101). -/
theorem nibStep_zero (n : BitVec 4) : nibStep 0#16 n = crcEntry n := by
  have htop : BitVec.extractLsb' 12 4 0#16 = 0#4 := rfl
  rw [nibStep, htop, BitVec.zero_xor, BitVec.zero_shiftLeft, BitVec.zero_xor]

/-- The byte step with its nibbles as quotient and remainder of the byte by 16. -/
theorem crcStep_eq_nibStep_div_mod (b : Byte) (st : U16) :
    crcStep b st = nibStep (nibStep st (BitVec.ofNat 4 (b.toNat / 16))) (BitVec.ofNat 4 (b.toNat % 16)) := by
  have hhigh : b.extractLsb' 4 4 = BitVec.ofNat 4 (b.toNat / 16) := by
    apply BitVec.eq_of_toNat_eq; simp [Nat.shiftRight_eq_div_pow]
  have hlow : b.extractLsb' 0 4 = BitVec.ofNat 4 (b.toNat % 16) := by
    apply BitVec.eq_of_toNat_eq; simp
  rw [crcStep, hhigh, hlow]

theorem exec_crcStep (b : Byte) (st : U16) (s : State) :
    exec (.crcStep b st) s = .next (s.deliver (.ok (.word (crcStep b st)))) := rfl

/-- CRC_COMPUTE answers the fold from CRC_INIT, and the registers of its scan are discarded (R34, R104). -/
theorem exec_crcCompute (d : Bytes) (s : State) :
    exec (.crcCompute d) s = .next (s.finish (.ok (.word (crcCompute s.config.crcInit d)))) := by
  change Host.Outcome.next ((s.begin.scanCrc d).finish (.ok (.word (CrcUnit.run s.config.crcInit d).acc))) = _
  rw [CrcUnit.run_acc, State.finish_scanCrc]; rfl

/-- The variant's check value: the CRC of "123456789" from 0xFFFF (R104, R107). -/
theorem crcCompute_check_ones :
    crcCompute 0xFFFF#16 [0x31#8, 0x32#8, 0x33#8, 0x34#8, 0x35#8, 0x36#8, 0x37#8, 0x38#8, 0x39#8] = 0x29B1#16 := by decide

/-- The same from 0x0000 (R107). -/
theorem crcCompute_check_zero :
    crcCompute 0x0000#16 [0x31#8, 0x32#8, 0x33#8, 0x34#8, 0x35#8, 0x36#8, 0x37#8, 0x38#8, 0x39#8] = 0x31C3#16 := by decide

/-! ### The statements -/

/-- Settles O2: the nibbles of the byte, the corner cases evaluated, and the bitwise loop's injectivity for the operands. -/
theorem crcStepResult : Obligations.CrcStepResult := by
  have hexec (b : Byte) (st : U16) (s : State) := crcStep_eq_nibStep_div_mod b st ▸ exec_crcStep b st s
  have hzero (b : Byte) : crcStep b 0#16 = nibStep (crcEntry (b.extractLsb' 4 4)) (b.extractLsb' 0 4) := by
    rw [crcStep, nibStep_zero]
  exact ⟨fun _ _ => rfl, hexec, by decide, by decide, by decide, by decide, hzero,
    fun _ _ _ => crcStep_byte_injective, fun _ _ _ => crcStep_state_injective⟩

/-- Settles O3, by the equality of the nibble-table step and the bitwise step. -/
theorem crcStepIsBitwise : Obligations.CrcStepIsBitwise := by
  intro b st s
  exact ⟨crcStep_eq_bitStep b st, crcStep_eq_bitStep b st ▸ exec_crcStep b st s⟩

/-- Settles O4: the engine's fold is the bitwise fold, whose examples the table evaluates. -/
theorem crcComputeFoldsBytes : Obligations.CrcComputeFoldsBytes := by
  have hexec (d : Bytes) (s : State) := crcCompute_eq_bitCrc s.config.crcInit d ▸ exec_crcCompute d s
  refine ⟨fun _ => rfl, hexec, fun _ => rfl, ?_, ?_⟩
  · rw [← crcCompute_eq_bitCrc]; decide
  · rw [← crcCompute_eq_bitCrc, crcCompute_check_ones]

/-- Settles O1: four bits have sixteen values, each evaluated. -/
theorem crcTableIsPolynomialMultiples : Obligations.CrcTableIsPolynomialMultiples :=
  ⟨by decide, rfl⟩

/-- Settles O5: the fold over a concatenation. -/
theorem crcIsIncremental : Obligations.CrcIsIncremental := by
  intro a c s
  rw [exec_crcCompute, crcCompute_append]; rfl

/-- Settles O6: CRC_COMPUTE's outcome at the check values. -/
theorem crcReferenceValues : Obligations.CrcReferenceValues := by
  refine fun s => ⟨fun hs => ?_, fun hs => ?_⟩
  · rw [exec_crcCompute, exec_crcCompute, hs, crcCompute_nil, crcCompute_check_ones]; exact ⟨rfl, rfl⟩
  · rw [exec_crcCompute, exec_crcCompute, hs, crcCompute_nil, crcCompute_check_zero]; exact ⟨rfl, rfl⟩

end Sys2Proof.Machine
end

section
/-! The frame codec's outcomes (R120 to R126): what FRAME_ENCODE answers, the round trip, the inputs that are no frame, and the
rows of the transition table as the meanings of the frame symbols. -/

namespace Sys2Proof.Machine

open Sys2Proof.Config

/-! ### The table's rows by byte (R124) -/

/-- The row that opens a frame. -/
theorem FrmUnit.take_open {f : FrmUnit} (hp : f.phase = .expectStart) :
    f.take startByte = .ok { f with phase := .inFrame, pos := f.pos + 1 } := by
  rw [FrmUnit.take, if_pos rfl, FrmUnit.takeStart, hp]; rfl

/-- The row that ends a frame: what stands after END is the remainder. -/
theorem FrmUnit.take_close {f : FrmUnit} (hp : f.phase = .inFrame) (he : f.escaping = false) :
    f.take endByte = .ok { f with phase := .done, pos := f.pos + 1, rem := f.input.drop (f.pos + 1) } := by
  have hend : f.take endByte = f.takeEnd := rfl
  simp [hend, FrmUnit.takeEnd, FrmUnit.advance, hp, he]

/-- In phase Done every symbol leaves the registers (log 16). -/
theorem FrmUnit.take_done {f : FrmUnit} (hp : f.phase = .done) (c : Byte) : f.take c = .ok f := by
  unfold FrmUnit.take
  split_ifs
  · rw [FrmUnit.takeStart, hp]
  · rw [FrmUnit.takeEnd, hp]
  · rw [FrmUnit.takeEscape, hp]
  · rw [FrmUnit.takeLiteral, hp]

/-! ### The symbols' meanings by the rows (R71, R124) -/

theorem not_isSpecial_iff (b : Byte) : isSpecial b = false ↔ b ≠ startByte ∧ b ≠ endByte ∧ b ≠ escapeByte := by
  rw [← Bool.not_eq_true, isSpecial_iff, not_or, not_or]

/-- A byte that is not special is its own literal (R71). -/
theorem decodeSymbol_literal {b : Byte} (h : isSpecial b = false) : decodeSymbol b = .frameLiteral b := by
  obtain ⟨hstart, hend, hesc⟩ := (not_isSpecial_iff b).1 h
  rw [decodeSymbol, if_neg hstart, if_neg hend, if_neg hesc]

/-- A row that moves the registers changes nothing else. -/
theorem exec_decodeSymbol_ok {s : State} {c : Byte} {f : FrmUnit} (h : s.frm.take c = .ok f) :
    exec (decodeSymbol c) s = .next { s with frm := f } := by
  rw [exec_decodeSymbol, h]; rfl

theorem exec_decodeSymbol_error {s : State} {c : Byte} {d : FramingDetail} (h : s.frm.take c = .error d) :
    exec (decodeSymbol c) s = .next (s.raise (.framing d)) := by
  rw [exec_decodeSymbol, h]; rfl

/-- Settles O14, by phase and escaping flag: each symbol is a byte's, and the byte's row gives its meaning. -/
theorem frameSymbolTransitions : Obligations.FrameSymbolTransitions := by
  intro s b hb
  obtain ⟨hstart, hend, hesc⟩ := (not_isSpecial_iff b).1 hb
  rw [← decodeSymbol_literal hb, show Instr.frameStart = decodeSymbol startByte from rfl,
    show Instr.frameEnd = decodeSymbol endByte from rfl, show Instr.frameEscape = decodeSymbol escapeByte from rfl]
  refine ⟨fun hp => ?expectStart, fun hp he => ?bare, fun hp he => ?escaped, fun hp => ?done⟩
  case expectStart =>
    have hmissing {c : Byte} (hc : c ≠ startByte) := exec_decodeSymbol_error (FrmUnit.take_expectStart hp hc)
    exact ⟨exec_decodeSymbol_ok (FrmUnit.take_open hp), hmissing (by decide), hmissing (by decide), hmissing hstart⟩
  case bare =>
    exact ⟨exec_decodeSymbol_ok (FrmUnit.take_prefix hp he), exec_decodeSymbol_ok (FrmUnit.take_close hp he),
      exec_decodeSymbol_ok (FrmUnit.take_bare hp he (by decide) (by decide)),
      exec_decodeSymbol_ok (FrmUnit.take_bare hp he hend hesc)⟩
  case escaped =>
    have hcopy (c : Byte) := exec_decodeSymbol_ok (FrmUnit.take_escaped hp he c)
    exact ⟨hcopy escapeByte, hcopy endByte, hcopy startByte, hcopy b⟩
  case done =>
    have hstay (c : Byte) := exec_decodeSymbol_ok (FrmUnit.take_done hp c)
    exact ⟨hstay startByte, hstay endByte, hstay escapeByte, hstay b⟩

/-! ### The two operations (R120 to R126) -/

/-- FRAME_DECODE of an encoded payload (R122). -/
theorem exec_frameDecode_frameEncode (p t : Bytes) (s : State) :
    exec (.frameDecode (frameEncode p ++ t)) s = .next (s.finish (.ok (.decoded p t))) := by
  obtain ⟨f, hrun, hout, hrem⟩ := FrmUnit.run_stuffed p t
  rw [frameEncode_eq, List.append_assoc, List.singleton_append, exec_frameDecode_ok hrun, hout, hrem]

/-- FRAME_DECODE of an input without a leading START (R123). -/
theorem exec_frameDecode_missingStart {d : Bytes} (h : d.head? ≠ some startByte) (s : State) :
    exec (.frameDecode d) s = .next (s.raise (.framing .missingStart)) :=
  exec_frameDecode_error (FrmUnit.run_missingStart h) s

/-- FRAME_DECODE of a frame that runs out with no ESCAPE pending (R124). -/
theorem exec_frameDecode_interior {xs : List FrameByte} (h : ∀ x ∈ xs, x.ok = true) (s : State) :
    exec (.frameDecode (startByte :: renderFrame xs)) s = .next (s.raise (.framing .missingEnd)) :=
  exec_frameDecode_error (FrmUnit.run_interior h) s

/-- FRAME_DECODE of a frame that runs out after an ESCAPE (R124). -/
theorem exec_frameDecode_pending {xs : List FrameByte} (h : ∀ x ∈ xs, x.ok = true) (s : State) :
    exec (.frameDecode (startByte :: renderFrame xs ++ [escapeByte])) s = .next (s.raise (.framing .missingEnd)) :=
  exec_frameDecode_error (FrmUnit.run_pending h) s

/-- Settles O7: the encoder's loop appends the stuffed payload, whose length counts each special byte twice. -/
theorem frameEncodeResult : Obligations.FrameEncodeResult := by
  refine ⟨fun _ => rfl, exec_frameEncode, rfl, fun p hp => ?length, isSpecial_iff, by decide⟩
  case length =>
    rw [List.length_append, List.length_cons, stuffed_length, List.countP_eq_length.2 hp, List.length_singleton]
    omega

/-- Settles O9. The key fact is `FrmUnit.run_stuffed`: a stuffed payload is an interior with exactly its special bytes escaped. -/
theorem frameRoundTrip : Obligations.FrameRoundTrip := exec_frameDecode_frameEncode

/-- Settles O11: the scan stops at the first byte, or runs out after the interior. -/
theorem frameDecodeErrors : Obligations.FrameDecodeErrors :=
  ⟨fun _ s h => exec_frameDecode_missingStart h s,
    fun _ s h => ⟨exec_frameDecode_interior h s, exec_frameDecode_pending h s⟩⟩

/-- Settles O13: each input is a frame of the grammar, a frame that runs out, or has no leading START. -/
theorem frameDecodeCornerCases : Obligations.FrameDecodeCornerCases := fun s =>
  ⟨exec_frameDecode_frame (xs := []) (by decide) [] s,
    exec_frameDecode_interior (xs := []) (by decide) s,
    exec_frameDecode_pending (xs := []) (by decide) s,
    exec_frameDecode_interior (xs := [⟨true, endByte⟩]) (by decide) s,
    exec_frameDecode_frame (xs := [⟨true, endByte⟩]) (by decide) [] s,
    exec_frameDecode_frame (xs := [⟨false, startByte⟩]) (by decide) [] s,
    exec_frameDecode_frame (xs := [⟨true, escapeByte⟩]) (by decide) [] s,
    exec_frameDecode_missingStart (by decide) s,
    exec_frameDecode_missingStart (by decide) s,
    exec_frameDecode_missingStart (by decide) s⟩

end Sys2Proof.Machine
end

section
/-! Hex lines (43_hex.md §1): what HEX_LINE_PARSE answers for every kind of line (R140 to R144), and the raw bytes of a record
line (R157). -/

namespace Sys2Proof.Machine

open Sys2Proof.Config

/-! ### The operation and its parser (R140) -/

theorem exec_hexLineParse_ok {line : Text} {p : Parsed} (h : hexLineParse line = .ok p) (s : State) :
    exec (.hexLineParse line) s = .next (s.deliver (.ok p.value)) := by
  simp only [exec, execHexLineParse, h]

theorem exec_hexLineParse_error {line : Text} {d : HexDetail} (h : hexLineParse line = .error d) (s : State) :
    exec (.hexLineParse line) s = .next (s.raise (.hexFormat d)) := by
  simp only [exec, execHexLineParse, h]

/-- A blank line is skipped (R141). -/
theorem hexLineParse_of_strip_nil {line : Text} (h : strip line = []) : hexLineParse line = .ok .skip := by
  simp [hexLineParse, h]

/-- A comment line is skipped, whatever follows its mark (R141). -/
theorem hexLineParse_of_strip_hash {line t : Text} (h : strip line = hash :: t) : hexLineParse line = .ok .skip := by
  simp [hexLineParse, h]

section
variable {line t : Text} (hstrip : strip line = t) (hne : t ≠ []) (hhash : t.head? ≠ some hash)
include hstrip hne hhash

/-- Neither test of R141 skips a line that strips to such a text: its checks decide, and then its checksum (R142, R144). -/
theorem hexLineParse_of_not_skipped :
    hexLineParse line = (lineCheck t).elim
      (if byteSum (lineBytes t) % 256 ≠ 0 then .error .checksum else .ok (.record (recordOf (lineBytes t)))) .error := by
  have hskip : (t.isEmpty || t.getD 0 0#8 == hash) = false := by
    cases t with
    | nil => exact absurd rfl hne
    | cons c u => simpa using hhash
  simp only [hexLineParse, hstrip, hskip, Bool.false_eq_true, if_false]
  cases lineCheck t <;> rfl

/-- A check that fails gives its detail (R142). -/
theorem hexLineParse_of_check_fails {d : HexDetail} (h : lineCheck t = some d) : hexLineParse line = .error d := by
  rw [hexLineParse_of_not_skipped hstrip hne hhash, h, Option.elim_some]

/-- A line that passes the checks is left to its checksum (R143, R144). -/
theorem hexLineParse_of_check_passes (h : lineCheck t = none) :
    hexLineParse line = .error .checksum ∨ ∃ r, hexLineParse line = .ok (.record r) := by
  rw [hexLineParse_of_not_skipped hstrip hne hhash, h, Option.elim_none]
  split
  · exact .inl rfl
  · exact .inr ⟨_, rfl⟩

end

/-! ### The checks (R142) -/

theorem digitValue_lt (c : Byte) : digitValue c < 16 := by
  revert c; decide

/-- Two digits never exceed a byte, so the byte count is their value (R83, R142). -/
theorem lineCount_eq (t : Text) : lineCount t = 16 * digitValue (t.getD 1 0#8) + digitValue (t.getD 2 0#8) := by
  have hhigh := digitValue_lt (t.getD 1 0#8)
  have hlow := digitValue_lt (t.getD 2 0#8)
  rw [lineCount, hexByte, BitVec.toNat_ofNat, Nat.mod_eq_of_lt (by omega)]

/-- The checks in the words of R142: the first character, and the characters after it. -/
theorem lineCheck_eq (t : Text) :
    lineCheck t =
      if t.length < 11 then some .tooShort
      else if t.head? ≠ some 0x3A#8 then some .badStart
      else if ∃ c ∈ t.tail, isHexDigit c = false then some .badDigit
      else if t.length ≠ 11 + 2 * (16 * digitValue (t.getD 1 0#8) + digitValue (t.getD 2 0#8)) then some .lengthMismatch
      else none := by
  rw [lineCheck, lineCount_eq]
  cases t with
  | nil => rfl
  | cons c u => simp [hexMinLine, colon]

/-! ### The bytes of a record line (R143, R157) -/

theorem ofBe16_eq_ofLe16 (hi lo : Byte) : ofBe16 hi lo = ofLe16 lo hi := BitVec.or_comm _ _

/-- `address = r[1]*256 + r[2]` (R143). -/
theorem ofBe16_toNat (hi lo : Byte) : (ofBe16 hi lo).toNat = hi.toNat * 256 + lo.toNat := by
  rw [ofBe16_eq_ofLe16, ofLe16_toNat, Nat.mul_comm, Nat.add_comm]

/-- addrHi and addrLo by arithmetic (R55). -/
theorem be16_eq (v : U16) : be16 v = [BitVec.ofNat 8 (v.toNat / 256), BitVec.ofNat 8 v.toNat] :=
  calc be16 v = (le16 v).reverse := rfl
    _ = (le16Nat v.toNat).reverse := by rw [le16_eq]

theorem be16_ofBe16 (hi lo : Byte) : be16 (ofBe16 hi lo) = [hi, lo] := by
  have := lo.isLt
  rw [be16_eq, ofBe16_toNat, show (hi.toNat * 256 + lo.toNat) / 256 = hi.toNat by omega]
  simp only [BitVec.ofNat_toNat, BitVec.setWidth_eq, List.cons.injEq, true_and, and_true]
  apply BitVec.eq_of_toNat_eq
  rw [BitVec.toNat_ofNat]
  omega

/-- A record's fields, written in order, are its bytes again, if there are as many as the first one says (R143, R157). -/
theorem recordOf_fields {raw : Bytes} (h : raw.length = (recordOf raw).byteCount.toNat + 5) :
    raw = [(recordOf raw).byteCount] ++ be16 (recordOf raw).address ++ [(recordOf raw).recordType]
      ++ (recordOf raw).data ++ [(recordOf raw).checksum] := by
  match raw, h with
  | b0 :: b1 :: b2 :: b3 :: rest, h =>
    have hrest : rest.length = b0.toNat + 1 := by simpa [recordOf] using h
    have hsplit : rest.take b0.toNat ++ [rest[b0.toNat]] = rest := by
      rw [List.take_concat_get', ← hrest, List.take_length]
    simp [recordOf, be16_ofBe16, Nat.add_comm 4, List.getElem?_eq_getElem (show b0.toNat < rest.length by omega), hsplit]

theorem recordBytes_of_record {line : Text} {r : Record} (h : hexLineParse line = .ok (.record r)) :
    recordBytes line = some (lineBytes (strip line)) := by
  simp only [recordBytes, h]

/-! ### The statements -/

/-- Settles O16: the parser reads the digit pairs, and the sum of their bytes decides. -/
theorem hexLineRecordFields : Obligations.HexLineRecordFields := by
  unfold Obligations.HexLineRecordFields
  intro pre post ds s hpre hpost hds r hlen line
  have hcount : ds.length = (r.getD 0 0#8).toNat + 5 := List.length_map .. ▸ hlen
  obtain ⟨-, -, hparse⟩ := hexLineParse_digits hpre hpost hds hcount
  refine ⟨fun hsum => ⟨recordOf r, ?_, rfl, ofBe16_toNat _ _, rfl, rfl, rfl⟩, fun hsum => ?_⟩
  · exact exec_hexLineParse_ok (hparse.trans (if_neg (not_not_intro hsum))) s
  · exact exec_hexLineParse_error (hparse.trans (if_pos hsum)) s

/-- Settles O17: such lines strip to nothing, or to a text that begins with the comment mark. -/
theorem hexLineSkips : Obligations.HexLineSkips := by
  unfold Obligations.HexLineSkips
  intro pre rest s hpre
  obtain ⟨t, hcomment⟩ := strip_head (t := rest) (c := hash) hpre (by decide)
  exact ⟨exec_hexLineParse_ok (hexLineParse_of_strip_nil (strip_blank hpre)) s,
    exec_hexLineParse_ok (hexLineParse_of_strip_hash hcomment) s⟩

/-- Settles O18: the line strips to `t`, whose checks stand in `lineCheck_eq` in the statement's order. -/
theorem hexLineChecksInOrder : Obligations.HexLineChecksInOrder := by
  unfold Obligations.HexLineChecksInOrder
  intro pre t post s hpre hpost hne hhead hlast n x
  have hstrip : strip (pre ++ t ++ post) = t := strip_around hpre hpost (fun c hc => (hhead c hc).1) hlast
  have hhash : t.head? ≠ some hash := fun hc => (hhead hash hc).2 rfl
  have hfails {d : HexDetail} (hcheck : lineCheck t = some d) : x = .next (s.raise (.hexFormat d)) :=
    exec_hexLineParse_error (hexLineParse_of_check_fails hstrip hne hhash hcheck) s
  split_ifs with hshort hstart hdigit hlen
  · exact hfails (by rw [lineCheck_eq, if_pos hshort])
  · exact hfails (by rw [lineCheck_eq, if_neg hshort, if_pos hstart])
  · exact hfails (by rw [lineCheck_eq, if_neg hshort, if_neg hstart, if_pos hdigit])
  · exact hfails (by rw [lineCheck_eq, if_neg hshort, if_neg hstart, if_neg hdigit, if_pos hlen])
  · have hcheck : lineCheck t = none := by
      rw [lineCheck_eq, if_neg hshort, if_neg hstart, if_neg hdigit, if_neg hlen]
    obtain hsum | ⟨r, hr⟩ := hexLineParse_of_check_passes hstrip hne hhash hcheck
    · exact .inl (exec_hexLineParse_error hsum s)
    · exact .inr ⟨r, exec_hexLineParse_ok hr s⟩

/-- Settles O19: a record's fields are its line's bytes, and an encoded line's bytes are the encoder's head and checksum. -/
theorem recordBytesOfLine : Obligations.RecordBytesOfLine := by
  unfold Obligations.RecordBytesOfLine
  refine ⟨fun line r h => ?parsed, fun pre post tt address data hpre hpost hdata => ?encoded⟩
  case parsed =>
    obtain ⟨rfl, hlen, -⟩ := hexLineParse_record h
    have hfields := recordOf_fields hlen
    rw [be16_eq] at hfields
    exact ⟨_, recordBytes_of_record h, hlen, hfields⟩
  case encoded =>
    obtain ⟨hparse, hbytes, hsum⟩ := hexLineParse_encodeRecord tt address data hpre hpost hdata
    refine ⟨checksumOf (recordHead tt address data), ?_, ?_⟩
    · rw [recordBytes_of_record hparse, hbytes, recordHead, be16_eq]; rfl
    · have := address.isLt
      have hcount : data.length % 256 = data.length := Nat.mod_eq_of_lt (by omega)
      have hhigh : address.toNat / 256 % 256 = address.toNat / 256 := Nat.mod_eq_of_lt (by omega)
      rw [byteSum, List.map_append] at hsum
      generalize checksumOf (recordHead tt address data) = cc at hsum ⊢
      simp [recordHead, be16_eq, hcount, hhigh] at hsum
      omega

end Sys2Proof.Machine
end

section
/-! Hex records (43_hex.md §3): what each record type does as a step by itself (R150 to R156), and how a line can fail a pass
(R142, R144, R149). -/

namespace Sys2Proof.Machine

open Sys2Proof.Config

/-! ### Data records (R150, R152) -/

/-- The HEX registers after a completed Data record of `n` bytes (R150, R152). -/
def HexUnit.afterData (h : HexUnit) (address : U16) (n : Nat) : HexUnit :=
  { h with
    startAddr := some (h.startAddr.getD (h.xaddr.toNat + address.toNat))
    endAddr := some (h.xaddr.toNat + address.toNat + n)
    pos := h.pos + 1 }

section
variable {s : State} (address : U16) {data : Bytes}

/-- A Data record after an EndOfFile record (R150). -/
theorem dataRecord_afterEof (h : s.hex.eofSeen = true) : dataRecord address data s = .failed .dataAfterEof s := by
  rw [dataRecord, if_pos h]

/-- A Data record whose every byte the host answers with Continue goes on to the next line (R150). -/
theorem dataRecord_host_more {rest : List EmitAnswer} (hc : s.hex.consumer = .host) (he : s.hex.eofSeen = false)
    (ha : s.answers = List.replicate data.length .cont ++ rest) :
    dataRecord address data s = .more
      { s with
        hex := s.hex.afterData address data.length
        answers := rest
        trace := s.trace ++ emitted .host (s.hex.xaddr.toNat + address.toNat) data } := by
  have hall := emitAll_host_cont (s := s.withHex (s.hex.noteStart (s.effAddr address))) (a := s.effAddr address) hc ha
  simp only [dataRecord, he, hall]
  rfl

/-- The host's Stop leaves a Data record at its byte, with startAddr noted and endAddr as it was (R150, R151). -/
theorem dataRecord_host_stop {before after : Bytes} {v : Byte} {rest : List EmitAnswer} (hc : s.hex.consumer = .host)
    (he : s.hex.eofSeen = false) (ha : s.answers = List.replicate before.length .cont ++ .stop :: rest) :
    dataRecord address (before ++ v :: after) s = .stopped
      { s with
        hex := s.hex.noteStart (s.effAddr address)
        answers := rest
        trace := s.trace ++ emitted .host (s.hex.xaddr.toNat + address.toNat) before
          ++ [.emit .host (s.hex.xaddr.toNat + address.toNat + before.length) v .stop] } := by
  have hall := emitAll_host_stop (s := s.withHex (s.hex.noteStart (s.effAddr address))) (a := s.effAddr address)
    (v := v) (after := after) hc ha
  simp only [dataRecord, he, hall]
  rfl

end

/-! ### ExtLinearAddr records (R154) -/

/-- Any number of data bytes but two is refused (R154). -/
theorem elaRecord_badLength {data : Bytes} (h : data.length ≠ 2) (s : State) :
    elaRecord data s = .failed .badElaLength s := by
  match data with
  | [] => rfl
  | [_] => rfl
  | [_, _] => exact absurd rfl h
  | _ :: _ :: _ :: _ => rfl

/-! ### The statements about single records -/

/-- Settles O20: the record's emissions all answered Continue, and its window registers. -/
theorem dataRecordEmits : Obligations.DataRecordEmits := by
  unfold Obligations.DataRecordEmits
  intro s address data rest hc he ha
  simp only [exec, execRecData, dataRecord_host_more address hc he ha]
  rfl

/-- Settles O22: the stopped record ends the host pass, and the end discards the registers. -/
theorem dataRecordStops : Obligations.DataRecordStops := by
  unfold Obligations.DataRecordStops
  intro s address before v after rest hc he ha
  have hconsumer : (s.hex.noteStart (s.effAddr address)).consumer = .host := hc
  simp only [exec, execRecData, dataRecord_host_stop address hc he ha, PassStep.settle, hconsumer]
  rfl

/-- Settles O23: two bytes give the offset, whose value is `elaBase`; any other number is refused. -/
theorem elaRecordSetsOffset : Obligations.ElaRecordSetsOffset := by
  unfold Obligations.ElaRecordSetsOffset
  refine ⟨fun s address d0 d1 => ⟨elaOffset s.config.elaMode d0 d1, rfl, ?_⟩, fun s address data hlen => ?_⟩
  · rw [elaOffset_toNat]
    cases s.config.elaMode <;> rfl
  · simp only [exec, execRecExtLinearAddr, elaRecord_badLength hlen, PassStep.settle]

/-- Settles O24: the three types are the record that only consumes its line. -/
theorem noOperationRecords : Obligations.NoOperationRecords := fun _ _ _ => ⟨rfl, rfl, rfl⟩

/-- Settles O25: eofSeen set, read by a Data record, and the unknown types. -/
theorem eofAndUnknownRecords : Obligations.EofAndUnknownRecords := by
  unfold Obligations.EofAndUnknownRecords
  refine fun s address data tt => ⟨rfl, fun heof => ?_, fun _ => rfl⟩
  simp only [exec, execRecData, dataRecord_afterEof address heof, PassStep.settle]

/-! ### How a line fails (R142, R144, R149, R150, R154, R156) -/

/-- A Data record fails only after an EndOfFile record. -/
theorem dataRecord_fails_iff {address : U16} {data : Bytes} {s : State} {d : HexDetail} :
    (∃ u, dataRecord address data s = .failed d u) ↔ s.hex.eofSeen = true ∧ d = .dataAfterEof := by
  constructor
  · rintro ⟨u, h⟩
    cases heof : s.hex.eofSeen with
    | true =>
      rw [dataRecord_afterEof address heof] at h
      cases h
      exact ⟨rfl, rfl⟩
    | false =>
      simp only [dataRecord, heof, Bool.false_eq_true, if_false] at h
      split at h
      · cases h
      · exact (emitAll_not_failed _ _ _ _ _ h).elim
  · rintro ⟨heof, rfl⟩
    exact ⟨s, dataRecord_afterEof address heof⟩

/-- An ExtLinearAddr record fails only on its length. -/
theorem elaRecord_fails_iff {data : Bytes} {s : State} {d : HexDetail} :
    (∃ u, elaRecord data s = .failed d u) ↔ data.length ≠ 2 ∧ d = .badElaLength := by
  by_cases hlen : data.length = 2
  · obtain ⟨d0, d1, rfl⟩ := List.length_eq_two.1 hlen
    simp [elaRecord]
  · simp [elaRecord_badLength hlen, hlen, eq_comm]

/-- The record types that fail, and when (R86, R147). -/
theorem recordStep_fails_iff {r : Record} {s : State} {d : HexDetail} :
    (∃ u, recordStep r s = .failed d u) ↔
      (5 < r.recordType.toNat ∧ d = .unknownType ∨
        r.recordType = 0x04#8 ∧ r.data.length ≠ 2 ∧ d = .badElaLength ∨
        r.recordType = 0x00#8 ∧ s.hex.eofSeen = true ∧ d = .dataAfterEof) := by
  have htype (k : Byte) : r.recordType = k ↔ r.recordType.toNat = k.toNat := BitVec.toNat_inj.symm
  rw [htype, htype]
  unfold recordStep
  generalize r.recordType.toNat = tt
  match tt with
  | 0 => simp [dataRecord_fails_iff]
  | 1 => simp [eofRecord]
  | 2 | 3 | 5 => simp [noOpRecord]
  | 4 => simp [elaRecord_fails_iff]
  | tt + 6 => simp [unknownRecord, @eq_comm _ _ d]

/-- A line fails a pass where the parser refuses it or its record fails. -/
theorem lineStep_fails_iff {line : Text} {s : State} {d : HexDetail} :
    (∃ u, lineStep line s = .failed d u) ↔
      (hexLineParse line = .error d ∨
        ∃ r, hexLineParse line = .ok (.record r) ∧ ∃ u, recordStep r s = .failed d u) := by
  unfold lineStep
  cases hparse : hexLineParse line with
  | error e => simp
  | ok p => cases p <;> simp

end Sys2Proof.Machine
end

section
/-! Passes of HEX_FILE_PARSE (43_hex.md §2): files of skipped lines, files of Data records, and a pass that an error or a Stop
ends (R146, R148, R149, R151). -/

namespace Sys2Proof.Machine

open Sys2Proof.Config

/-! ### A pass over lines one by one (R146, R149, R151) -/

section
variable {l : Text} {s t : State} (ls : List Text)

theorem passLoop_cons_more (h : lineStep l s = .more t) : passLoop (l :: ls) s = passLoop ls t := by
  simp only [passLoop, h]

theorem passLoop_cons_stopped (h : lineStep l s = .stopped t) : passLoop (l :: ls) s = .stopped t := by
  simp only [passLoop, h]

theorem passLoop_cons_failed {d : HexDetail} (h : lineStep l s = .failed d t) : passLoop (l :: ls) s = .failed d t := by
  simp only [passLoop, h]

end

theorem passLoop_append_more {ls : List Text} {s t : State} (h : passLoop ls s = .more t) (ms : List Text) :
    passLoop (ls ++ ms) s = passLoop ms t := by
  rw [passLoop_append, h]

theorem passLoop_append_stopped {ls : List Text} {s t : State} (h : passLoop ls s = .stopped t) (ms : List Text) :
    passLoop (ls ++ ms) s = .stopped t := by
  rw [passLoop_append, h]

/-- HEX_FILE_PARSE is a fresh host pass and its end (R146). -/
theorem exec_hexFileParse_of_passLoop {ls : List Text} {s : State} {p : PassStep}
    (h : passLoop ls (s.begin.openPass .host) = p) : exec (.hexFileParse (.lines ls)) s = .next (closePass p) :=
  congrArg (fun p => Host.Outcome.next (closePass p)) h

/-- Emissions of a fresh host pass go to the host, after what the block has shown before (R30, R146). -/
theorem hostPass_trace (ls : List Text) (s : State) :
    ∃ es, (passLoop ls (s.begin.openPass .host)).state.trace = s.trace ++ es ∧
      ∀ e ∈ es, ∃ a v ans, e = .emit .host a v ans :=
  (passLoop_frame ls (s.begin.openPass .host)).trace

/-! ### Skipped lines (R141, R146) -/

/-- A pass over skipped lines only counts them. -/
theorem passLoop_skips {ls : List Text} (h : ∀ l ∈ ls, hexLineParse l = .ok .skip) (s : State) :
    passLoop ls s = .more (s.withHex { s.hex with pos := s.hex.pos + ls.length }) := by
  induction ls generalizing s with
  | nil => rfl
  | cons l ls ih =>
    obtain ⟨hl, hls⟩ := List.forall_mem_cons.1 h
    rw [passLoop_cons_more ls (lineStep_skip hl s), ih hls, List.length_cons, Nat.add_comm ls.length, ← Nat.add_assoc]
    rfl

/-- A range pass that was not refused ends with the padded CRC (R210, R213). -/
theorem State.concludeRange_of_not_refused {s : State} (h : s.rng.refused = false) :
    s.concludeRange = s.finish (.ok (.word s.rng.padToEnd.crc)) := by
  simp [State.concludeRange, h]

/-- A window that no byte fell in is padded whole, from its start (R213). -/
theorem RngUnit.load_padToEnd (crcInit : U16) (start stop : Nat) :
    (RngUnit.load crcInit start stop).padToEnd.crc = bitCrc crcInit (List.replicate (stop - start) erased) :=
  calc (RngUnit.load crcInit start stop).padToEnd.crc
      = crcPad (stop - start) crcInit := rfl
    _ = bitCrc crcInit (List.replicate (stop - start) erased) := by rw [crcPad_eq_crcCompute, crcCompute_eq_bitCrc]

/-- Settles O28: the pass leaves window and range unit as it found them. -/
theorem filesOfSkippedLines : Obligations.FilesOfSkippedLines := by
  unfold Obligations.FilesOfSkippedLines
  intro ls start stop s h
  refine ⟨exec_hexFileParse_of_passLoop (passLoop_skips h _), ?_⟩
  have hrange : exec (.rangeCrc (.lines ls) start stop) s =
      .next (closeRange (passLoop ls (s.begin.openRange start stop))) := rfl
  rw [hrange, passLoop_skips h, closeRange, State.concludeRange_of_not_refused rfl, State.withHex_rng, State.openRange_rng,
    RngUnit.load_padToEnd]
  rfl

/-! ### Lines of Data records (R150, R152) -/

section
variable (address : U16) {data : Bytes} (s : State)

theorem lineStep_encodeData (h : data.length ≤ 255) :
    lineStep (encodeRecord 0x00#8 address data) s = dataRecord address data s :=
  lineStep_encodeRecord 0x00#8 address data h s

theorem lineStep_encodeEof : lineStep (encodeRecord 0x01#8 address []) s = eofRecord s :=
  lineStep_encodeRecord 0x01#8 address [] (by decide) s

theorem lineStep_encodeEla (d0 d1 : Byte) :
    lineStep (encodeRecord 0x04#8 address [d0, d1]) s = elaRecord [d0, d1] s :=
  lineStep_encodeRecord 0x04#8 address [d0, d1] (by simp) s

end

/-- The HEX registers after Data records, one after the other (R152). -/
def HexUnit.afterRecords (h : HexUnit) (recs : List (U16 × Bytes)) : HexUnit :=
  recs.foldl (fun h r => h.afterData r.1 r.2.length) h

theorem HexUnit.afterRecords_cons (h : HexUnit) (r : U16 × Bytes) (recs : List (U16 × Bytes)) :
    h.afterRecords (r :: recs) = (h.afterData r.1 r.2.length).afterRecords recs := rfl

/-- Data records leave the offset (R154). -/
theorem HexUnit.afterRecords_xaddr (h : HexUnit) (recs : List (U16 × Bytes)) : (h.afterRecords recs).xaddr = h.xaddr := by
  induction recs generalizing h with
  | nil => rfl
  | cons r recs ih => exact ih (h.afterData r.1 r.2.length)

/-- A start address once set stays (R152). -/
theorem HexUnit.afterRecords_startAddr_some {h : HexUnit} {a : Nat} (ha : h.startAddr = some a)
    (recs : List (U16 × Bytes)) : (h.afterRecords recs).startAddr = some a := by
  induction recs generalizing h with
  | nil => exact ha
  | cons r recs ih => exact ih (h := h.afterData r.1 r.2.length) (by rw [HexUnit.afterData, ha]; rfl)

/-- The window starts at the first Data record by position in the file (R152). -/
theorem HexUnit.afterRecords_startAddr {h : HexUnit} (hn : h.startAddr = none) (first : U16 × Bytes)
    (tail : List (U16 × Bytes)) :
    (h.afterRecords (first :: tail)).startAddr = some (h.xaddr.toNat + first.1.toNat) :=
  HexUnit.afterRecords_startAddr_some (h := h.afterData first.1 first.2.length) (by rw [HexUnit.afterData, hn]; rfl) tail

/-- The window ends at the end of the last one, wherever the others lie (R152). -/
theorem HexUnit.afterRecords_endAddr (h : HexUnit) (init : List (U16 × Bytes)) (last : U16 × Bytes) :
    (h.afterRecords (init ++ [last])).endAddr = some (h.xaddr.toNat + last.1.toNat + last.2.length) := by
  have hstep : h.afterRecords (init ++ [last]) = (h.afterRecords init).afterData last.1 last.2.length := List.foldl_append
  rw [hstep, HexUnit.afterData, h.afterRecords_xaddr init]

/-- Data records one after the other, with the host answering Continue, emit all their bytes in order (R150, R61). -/
theorem passLoop_dataRecords {recs : List (U16 × Bytes)} (hlen : ∀ r ∈ recs, r.2.length ≤ 255) {s : State}
    {rest : List EmitAnswer} (hc : s.hex.consumer = .host) (he : s.hex.eofSeen = false)
    (ha : s.answers = List.replicate (recs.map fun r => r.2.length).sum .cont ++ rest) :
    passLoop (recs.map fun r => encodeRecord 0x00#8 r.1 r.2) s = .more
      { s with
        hex := s.hex.afterRecords recs
        answers := rest
        trace := s.trace ++ dataEvents .host s.hex.xaddr.toNat recs } := by
  induction recs generalizing s with
  | nil => simp [passLoop, HexUnit.afterRecords, dataEvents, show rest = s.answers by simpa using ha.symm]
  | cons r recs ih =>
    obtain ⟨hr, hrecs⟩ := List.forall_mem_cons.1 hlen
    have ha' : s.answers =
        List.replicate r.2.length .cont ++ (List.replicate (recs.map fun r => r.2.length).sum .cont ++ rest) := by
      rw [ha, List.map_cons, List.sum_cons, List.replicate_add, List.append_assoc]
    have hstep := (lineStep_encodeData r.1 s hr).trans (dataRecord_host_more r.1 hc he ha')
    rw [List.map_cons, passLoop_cons_more _ hstep, ih hrecs]
    · simp [dataEvents, HexUnit.afterRecords_cons, HexUnit.afterData]
    · exact hc
    · exact he
    · rfl

/-! ### A file of an offset record, Data records and an EndOfFile record (R146, R148, R154) -/

/-- The HEX registers of a fresh host pass after its ExtLinearAddr record (R154). -/
def HexUnit.atOffset (mode : ElaMode) (d0 d1 : Byte) : HexUnit :=
  { HexUnit.reset with xaddr := elaOffset mode d0 d1, pos := 1 }

theorem HexUnit.atOffset_xaddr (mode : ElaMode) (d0 d1 : Byte) :
    (HexUnit.atOffset mode d0 d1).xaddr.toNat = elaBase mode d0 d1 := elaOffset_toNat mode d0 d1

/-- The pass over such a file reads all its lines and emits all its bytes in order (R146, R150). -/
theorem passLoop_dataFile {s : State} (d0 d1 : Byte) {recs : List (U16 × Bytes)} {rest : List EmitAnswer}
    (hlen : ∀ r ∈ recs, r.2.length ≤ 255)
    (ha : s.answers = List.replicate (recs.map fun r => r.2.length).sum .cont ++ rest) :
    passLoop (dataFile d0 d1 recs) (s.begin.openPass .host) = eofRecord
      { s.begin with
        hex := (HexUnit.atOffset s.config.elaMode d0 d1).afterRecords recs
        answers := rest
        trace := s.trace ++ dataEvents .host (elaBase s.config.elaMode d0 d1) recs } := by
  have hoffset : lineStep (encodeRecord 0x04#8 0#16 [d0, d1]) (s.begin.openPass .host) =
      .more (s.begin.withHex (.atOffset s.config.elaMode d0 d1)) := lineStep_encodeEla 0#16 _ d0 d1
  have hdata := passLoop_dataRecords (s := s.begin.withHex (.atOffset s.config.elaMode d0 d1)) hlen rfl rfl ha
  have hfront := (passLoop_cons_more _ hoffset).trans hdata
  rw [State.withHex_hex, HexUnit.atOffset_xaddr] at hfront
  have heof := lineStep_encodeEof 0#16
    { s.begin with
      hex := (HexUnit.atOffset s.config.elaMode d0 d1).afterRecords recs
      answers := rest
      trace := s.trace ++ dataEvents .host (elaBase s.config.elaMode d0 d1) recs }
  exact (passLoop_append_more hfront _).trans (passLoop_cons_more [] heof)

/-- A file with Data records has a first one and a last one, which are the same in a file of one. -/
theorem records_first_last {α : Type} {first last : α} {mid recs : List α}
    (h : recs = [first] ∧ last = first ∨ recs = first :: mid ++ [last]) :
    (∃ tail, recs = first :: tail) ∧ ∃ init, recs = init ++ [last] := by
  rcases h with ⟨rfl, rfl⟩ | rfl
  · exact ⟨⟨[], rfl⟩, [], rfl⟩
  · exact ⟨⟨mid ++ [last], rfl⟩, first :: mid, rfl⟩

/-- Settles O27: the pass over the file, and the window its first and its last Data record leave. -/
theorem hexFileOfDataRecords : Obligations.HexFileOfDataRecords := by
  unfold Obligations.HexFileOfDataRecords
  intro s d0 d1 first last mid recs rest hrecs hlen ha
  obtain ⟨⟨tail, hfirst⟩, init, hlast⟩ := records_first_last hrecs
  have hstart : ((HexUnit.atOffset s.config.elaMode d0 d1).afterRecords recs).startAddr =
      some (elaBase s.config.elaMode d0 d1 + first.1.toNat) := by
    rw [hfirst, HexUnit.afterRecords_startAddr rfl, HexUnit.atOffset_xaddr]
  have hend : ((HexUnit.atOffset s.config.elaMode d0 d1).afterRecords recs).endAddr =
      some (elaBase s.config.elaMode d0 d1 + last.1.toNat + last.2.length) := by
    rw [hlast, HexUnit.afterRecords_endAddr, HexUnit.atOffset_xaddr]
  rw [exec_hexFileParse_of_passLoop (passLoop_dataFile d0 d1 hlen ha), ← hstart, ← hend]
  rfl

/-! ### A pass ended by an error (R149, R236) -/

/-- Settles O29: the errors by kind of line, and the pass up to the line that raises one. -/
theorem hexFileErrorEndsPass : Obligations.HexFileErrorEndsPass := by
  unfold Obligations.HexFileErrorEndsPass
  refine ⟨fun bad d t => ?errors, fun good later bad d s t u hgood hbad => ?ends⟩
  case errors =>
    rw [lineStep_fails_iff]
    simp only [recordStep_fails_iff]
  case ends =>
    obtain rfl := lineStep_failed hbad
    have hpass := (passLoop_append_more hgood (bad :: later)).trans (passLoop_cons_failed later hbad)
    have htrace := hostPass_trace good s
    rw [hgood] at htrace
    exact ⟨exec_hexFileParse_of_passLoop hpass, htrace⟩

/-! ### A pass ended by a Stop (R151) -/

/-- A host pass that stops has shown emissions answered Continue and, last, the one answered Stop (R151). -/
theorem hostPass_stopped_trace {ls : List Text} {s t : State} (h : passLoop ls (s.begin.openPass .host) = .stopped t) :
    ∃ (es : List Event) (a : Nat) (v : Byte), t.trace = s.trace ++ es ++ [.emit .host a v .stop] ∧
      ∀ e ∈ es, ∃ a' v', e = .emit .host a' v' .cont := by
  have hanswers := passLoop_answers ls (s.begin.openPass .host)
  rw [h] at hanswers
  obtain ⟨es, hes, a, v, htrace⟩ := hanswers
  exact ⟨es, a, v, htrace, hes⟩

/-- A line of a Data record is run as one (R86, R146). -/
theorem lineStep_data {line : Text} {r : Record} (h : hexLineParse line = .ok (.record r)) (ht : r.recordType = 0x00#8)
    (s : State) : lineStep line s = dataRecord r.address r.data s := by
  simp [lineStep, h, recordStep, ht]

/-- Settles O30: the pass over the lines up to the Stop, whatever lines follow. -/
theorem hexFileStopEndsPass : Obligations.HexFileStopEndsPass := by
  unfold Obligations.HexFileStopEndsPass
  refine ⟨fun ls later s t h => ?whole, ?byByte⟩
  case whole =>
    exact ⟨exec_hexFileParse_of_passLoop (passLoop_append_stopped h later), hostPass_stopped_trace h⟩
  case byByte =>
    intro good later line r before v after rest s t hgood hline htype hdata he ha
    have hc : t.hex.consumer = .host := by
      have hframe := (passLoop_frame good (s.begin.openPass .host)).consumer
      rwa [hgood] at hframe
    have hstep := lineStep_data hline htype t
    rw [hdata, dataRecord_host_stop r.address hc he ha] at hstep
    exact exec_hexFileParse_of_passLoop
      ((passLoop_append_more hgood (line :: later)).trans (passLoop_cons_stopped later hstep))

end Sys2Proof.Machine
end

section
/-! Sessions (44_session.md): the first half of an exchange (R170 to R173), the response messages and the dispatch on them (R177
to R179), the errors of RESPONSE_DECODE in their order (R178, R233), and what the session operations do with the transport's
answer (R170, R174, R180, R187). -/

namespace Sys2Proof.Machine

open Sys2Proof.Config

/-! ### Requests (R170 to R173, R187) -/

/-- The registers and the event a sent request leaves, in the spec's own terms (R171, R173). -/
theorem State.sendRequest_eq_wireFrame (s : State) (req : Request) :
    s.sendRequest req =
      { s with
        ses := { s.ses with op := req.opcode }
        crc := { acc := bitCrc s.config.crcInit (requestLayout req), pos := (requestLayout req).length }
        enc := { pos := (requestLayout req).length + 2, out := wireFrame s.config.crcInit (requestLayout req) }
        trace := s.trace ++ [.txWrite (wireFrame s.config.crcInit (requestLayout req))] } := by
  rw [State.sendRequest_eq, frameEncode_request, crcCompute_eq_bitCrc, Request.body_eq]

/-- A request message means the first half of the exchange of the request it carries (R170; log 19). -/
theorem exec_wireRequest {i : Instr} {req : Request} (h : wireRequest i = some req) (s : State) :
    exec i s = .next (s.sendRequest req) := by
  cases i <;> cases h
  all_goals rfl

/-- Settles O33: the port's arm for OPSEL 0x07, and that operation's outcome. -/
theorem requestEncodeFrames : Obligations.RequestEncodeFrames := fun req s =>
  ⟨rfl, exec_requestEncode req s⟩

/-- Settles O35: each message sends its request. -/
theorem requestMessagesAreWritten : Obligations.RequestMessagesAreWritten := by
  intro i req s h
  rw [exec_wireRequest h, State.sendRequest_eq_wireFrame]

/-- Settles O43: the request sent, with the registers discarded at the end, and its frame evaluated. -/
theorem jumpToAppWritesOnly : Obligations.JumpToAppWritesOnly := by
  refine ⟨rfl, fun s => ?written, ?frame⟩
  case written =>
    have hexec : exec .jumpToApp s = .next ((s.begin.sendRequest .jumpToApp).finish (.ok .nothing)) := rfl
    rw [hexec, State.sendRequest_eq_wireFrame]; rfl
  case frame =>
    rw [wireFrame, ← crcCompute_eq_bitCrc]
    decide

/-! ### Response messages (R76, R179) -/

/-- A version of any length but two is refused. -/
theorem State.takeBootInfo_badLength {rest : Bytes} (h : rest.length ≠ 2) (s : State) :
    s.takeBootInfo rest = s.raise (.framing .badLength) := by
  unfold State.takeBootInfo
  split
  · exact absurd rfl h
  · rfl

/-- A CRC of any length but two is refused. -/
theorem State.takeCrc_badLength {rest : Bytes} (h : rest.length ≠ 2) (s : State) :
    s.takeCrc rest = s.raise (.framing .badLength) := by
  unfold State.takeCrc
  split
  · exact absurd rfl h
  · rfl

/-- Any byte after an opcode that stands alone is refused. -/
theorem State.takeBare_badLength {rest : Bytes} (h : rest ≠ []) (s : State) (v : Response) :
    s.takeBare v rest = s.raise (.framing .badLength) := by
  unfold State.takeBare
  split
  · exact absurd rfl h
  · rfl

/-- Settles O38: two bytes are read as a little-endian word, and every other length is refused. -/
theorem responseMessageDecoders : Obligations.ResponseMessageDecoders := by
  intro s lo hi rest
  refine ⟨⟨ofLe16 lo hi, ofLe16_toNat lo hi, rfl, rfl⟩, rfl, rfl, rfl, fun h => ?word, fun h => ?bare, rfl, fun _ => rfl⟩
  case word => exact ⟨congrArg _ (s.takeBootInfo_badLength h), congrArg _ (s.takeCrc_badLength h)⟩
  case bare =>
    exact ⟨congrArg _ (s.takeBare_badLength h _), congrArg _ (s.takeBare_badLength h _),
      congrArg _ (s.takeBare_badLength h _)⟩

/-- The opcodes that name an operation, one by one (R74). -/
theorem eq_of_opcodeKnown {op : Byte} (h : opcodeKnown op = true) :
    op = 0x01#8 ∨ op = 0x02#8 ∨ op = 0x03#8 ∨ op = 0x04#8 ∨ op = 0x05#8 := by
  obtain ⟨hlow, hhigh⟩ := Bool.and_eq_true_iff.1 h
  have hlow : 1 ≤ op.toNat := of_decide_eq_true hlow
  have hhigh : op.toNat ≤ 5 := of_decide_eq_true hhigh
  bv_omega

/-- The dispatch on a first byte that names no operation (R77, R233). -/
theorem State.respond_unknown {op : Byte} (h : opcodeKnown op = false) (s : State) (rest : Bytes) :
    s.respond (op :: rest) = s.unrecognized (op :: rest) := by
  rw [opcodeKnown_eq_false_iff] at h
  unfold State.respond
  dsimp only
  split
  case h_6 => rfl
  all_goals omega

/-- The dispatch on a body is the meaning of the response message the body stands for (R76, R77, R177). -/
theorem exec_decodeResponseBody (body : Bytes) (s : State) :
    exec (decodeResponseBody body) s = .next (s.respond body) := by
  cases body with
  | nil => rfl
  | cons op rest =>
    by_cases hop : opcodeKnown op = true
    · obtain rfl | rfl | rfl | rfl | rfl := eq_of_opcodeKnown hop <;> rfl
    · have hunknown := Bool.eq_false_of_not_eq_true hop
      rw [decodeResponseBody_unknown hunknown, State.respond_unknown hunknown]; rfl

/-- Settles O39: the frame and the CRC come off, and both sides dispatch on the body. -/
theorem responseDecodeRunsMessage : Obligations.ResponseDecodeRunsMessage := by
  intro body pad s
  rw [exec_responseDecode_wireFrame, exec_decodeResponseBody]

/-! ### The errors of RESPONSE_DECODE, in their order (R175, R177, R178, R233) -/

/-- The outcome an operation ends with can be read from the state it ends in. -/
theorem State.finish_injective (s : State) : Function.Injective s.finish := by
  intro r r' h
  have htrace := congrArg State.trace h
  simpa using htrace

/-- FRAME_DECODE raises exactly the error its scan ends with (R123, R236). -/
theorem exec_frameDecode_raises_iff {d : Bytes} {e : FramingDetail} {s : State} :
    exec (.frameDecode d) s = .next (s.raise (.framing e)) ↔ FrmUnit.run d = .error e := by
  refine ⟨fun h => ?_, fun h => exec_frameDecode_error h s⟩
  cases hrun : FrmUnit.run d with
  | ok f =>
    rw [exec_frameDecode_ok hrun] at h
    cases s.finish_injective (Host.Outcome.next.inj h)
  | error e' =>
    rw [exec_frameDecode_error hrun] at h
    cases s.finish_injective (Host.Outcome.next.inj h)
    rfl

/-- RESPONSE_DECODE needs no fresh registers (R177). -/
theorem exec_responseDecode (r : Bytes) (timedOut : Bool) (s : State) :
    exec (.responseDecode r timedOut) s = .next (s.decodeResponse r timedOut) :=
  congrArg Host.Outcome.next (State.decodeResponse_congr s.finish_begin rfl r timedOut)

theorem exec_responseDecode_timedOut (r : Bytes) (s : State) :
    exec (.responseDecode r true) s = .next (s.raise .noResponse) := rfl

/-- A framing error is passed on as it is (R175). -/
theorem exec_responseDecode_framing {r : Bytes} {d : FramingDetail} (h : FrmUnit.run r = .error d) (s : State) :
    exec (.responseDecode r false) s = .next (s.raise (.framing d)) := by
  rw [exec_responseDecode, State.decodeResponse, h]; rfl

/-- An unframed payload of fewer than two bytes has no CRC (R178). -/
theorem exec_responseDecode_short {p : Bytes} (h : p.length < 2) (pad : Bytes) (s : State) :
    exec (.responseDecode (startByte :: stuffed p ++ endByte :: pad) false) s =
      .next (s.raise (.crcMismatch .short)) := by
  obtain ⟨f, hf⟩ := s.decodeResponse_frame p pad
  rw [exec_responseDecode, hf, State.checkMessage_short _ h]; rfl

/-- A trailer other than the body's CRC (R177, R178). -/
theorem exec_responseDecode_mismatch {body : Bytes} {lo hi : Byte} {s : State}
    (h : bitCrc s.config.crcInit body ≠ ofLe16 lo hi) (pad : Bytes) :
    exec (.responseDecode (startByte :: stuffed (body ++ [lo, hi]) ++ endByte :: pad) false) s =
      .next (s.raise (.crcMismatch .mismatch)) := by
  obtain ⟨f, hf⟩ := s.decodeResponse_frame (body ++ [lo, hi]) pad
  have hcrc : crcCompute (s.withFrm f).config.crcInit body ≠ ofLe16 lo hi := by rwa [crcCompute_eq_bitCrc]
  rw [exec_responseDecode, hf, State.checkMessage_append, if_pos hcrc]; rfl

/-- Settles O37: what stands before the body's dispatch has a lemma each above; a CRC-correct frame runs its response message,
which refuses a body without a known opcode or of a wrong length. -/
theorem responseErrors : Obligations.ResponseErrors := by
  intro s pad
  refine ⟨fun r => exec_responseDecode_timedOut r s,
    fun r d h => exec_responseDecode_framing (exec_frameDecode_raises_iff.1 h) s,
    fun p h => exec_responseDecode_short h pad s, fun body lo hi h => ?mismatch,
    responseDecodeRunsMessage [] pad s, fun op rest h => ?unknown, fun op rest h => ?badLength⟩
  case mismatch =>
    refine exec_responseDecode_mismatch (fun heq => h ?_) pad
    rw [heq, ofLe16_toNat]
  case unknown =>
    have hop : opcodeKnown op = false := (opcodeKnown_eq_false_iff op).2 h
    rw [responseDecodeRunsMessage, decodeResponseBody_unknown hop]; rfl
  case badLength =>
    rw [responseDecodeRunsMessage]
    obtain ⟨rfl | rfl, hlen⟩ | ⟨hop, hrest⟩ := h
    · exact congrArg _ (s.takeBootInfo_badLength hlen)
    · exact congrArg _ (s.takeCrc_badLength hlen)
    · obtain rfl | rfl | rfl := hop <;> exact congrArg _ (s.takeBare_badLength hrest _)

/-! ### The exchanges (R170, R174, R180) -/

/-- The state in which an exchange of `req` decodes the answer `a`: the request is written, the answer read and used up (R170,
R174). -/
def State.exchanged (s : State) (req : Request) (a : ReadAnswer) (rest : List ReadAnswer) : State :=
  { s with
    transport := rest
    trace := s.trace ++
      [.txWrite (wireFrame s.config.crcInit (requestLayout req)),
       .txRead s.config.readMax s.config.timeoutMs (a.bytes.take s.config.readMax) a.timedOut] }

section
variable {s : State} {a : ReadAnswer} {rest : List ReadAnswer} (h : s.transport = a :: rest) (req : Request)
include h

/-- The write uses up no answer (R31). -/
theorem State.sendRequest_nextRead : (s.begin.sendRequest req).nextRead = a :=
  State.nextRead_cons (s := s.begin.sendRequest req) h

theorem State.writeThenRead_trace : (s.begin.sendRequest req).txRead.trace = (s.exchanged req a rest).trace := by
  rw [State.txRead_trace, State.sendRequest_nextRead h, State.sendRequest_eq_wireFrame]
  exact List.append_assoc ..

/-- Only unit registers are left of the write and the read besides their events and the answer used up. -/
theorem State.finish_writeThenRead (r : Result) :
    (s.begin.sendRequest req).txRead.finish r = (s.exchanged req a rest).finish r := by
  have hread := State.txRead_cons (s := s.begin.sendRequest req) h
  have htrace := State.writeThenRead_trace h req
  rw [hread] at htrace ⊢
  exact State.finish_congr r rfl rfl rfl rfl rfl htrace

/-- An exchange whose answer is listed decodes that answer (R170, R174). -/
theorem State.exchange_of_answer :
    s.exchange req = (s.exchanged req a rest).decodeResponse (a.bytes.take s.config.readMax) a.timedOut := by
  rw [State.exchange_eq, State.txRead_ses, State.sendRequest_nextRead h]
  exact State.decodeResponse_congr (State.finish_writeThenRead h req) (State.txRead_config _) _ _

end

/-- Settles O40: such an operation is the exchange of its request, which decodes the answer the transport lists next. -/
theorem exchangeWritesReadsDecodes : Obligations.ExchangeWritesReadsDecodes := by
  intro i req s a rest hreq hj htransport
  rw [exec_sessionRequest hreq hj, State.exchange_of_answer htransport, exec_responseDecode]; rfl

/-- Settles O41: the answer fits the read whole, and its decode is the response's round trip. -/
theorem exchangeReturnsResponse : Obligations.ExchangeReturnsResponse := by
  intro i req s v pad rest hreq hj htransport hfits
  rw [exchangeWritesReadsDecodes i req s _ rest hreq hj htransport, List.take_of_length_le hfits]
  exact responseRoundTrip v pad _

end Sys2Proof.Machine
end

section
/-! The range-CRC unit record by record (45_range_crc.md R212, R213, R215), and how RANGE_CRC ends (R216). -/

namespace Sys2Proof.Machine

open Sys2Proof.Config

/-! ### The CRC of padding (R53, R212, R213) -/

theorem bitCrc_append (init : U16) (d e : Bytes) : bitCrc init (d ++ e) = bitCrc (bitCrc init d) e := List.foldl_append

/-- Padding is the CRC over that many unwritten bytes. -/
theorem crcPad_eq_bitCrc (n : Nat) (st : U16) : crcPad n st = bitCrc st (List.replicate n erased) := by
  rw [crcPad_eq_crcCompute, crcCompute_eq_bitCrc]

/-- The padding at the end of a pass whose cursor is set (R213). -/
theorem RngUnit.padToEnd_crc {r : RngUnit} {c : Nat} (h : r.cursor = some c) :
    r.padToEnd.crc = bitCrc r.crc (List.replicate (r.stop - c) erased) := by
  rw [RngUnit.padToEnd, crcPad_eq_bitCrc, h]
  rfl

/-! ### In-window bytes (R212, R215) -/

/-- The unit after the bytes of `data`, in the window from `a` on: the gap before them and the bytes folded, the cursor behind
them (R212). -/
def RngUnit.afterSpan (r : RngUnit) (a : Nat) (data : Bytes) : RngUnit :=
  { r with
    crc := bitCrc r.crc (List.replicate (a - r.cursor.getD a) erased ++ data)
    cursor := some (a + data.length) }

/-- No gap stands between the bytes of a span. -/
theorem RngUnit.afterSpan_cons (r : RngUnit) (a : Nat) (v : Byte) (vs : Bytes) :
    (r.afterSpan a [v]).afterSpan (a + 1) vs = r.afterSpan a (v :: vs) := by
  simp only [RngUnit.afterSpan, List.length_cons, List.length_nil, Nat.zero_add, Option.getD_some, Nat.sub_self,
    List.replicate_zero, List.nil_append, Nat.add_right_comm a 1, ← Nat.add_assoc, ← bitCrc_append, List.append_assoc,
    List.cons_append]

/-- Nothing is folded before the first in-window bytes (R212). -/
theorem RngUnit.afterSpan_unset {r : RngUnit} (h : r.cursor = none) (a : Nat) (data : Bytes) :
    r.afterSpan a data = { r with crc := bitCrc r.crc data, cursor := some (a + data.length) } := by
  simp [RngUnit.afterSpan, h]

/-- The gap up to a byte and the byte, as one fold. -/
theorem crcStep_crcPad (v : Byte) (n : Nat) (st : U16) :
    crcStep v (crcPad n st) = bitCrc st (List.replicate n erased ++ [v]) := by
  rw [crcPad_eq_bitCrc, crcStep_eq_bitStep, bitCrc_append]
  rfl

section
variable {r : RngUnit} {a : Nat} (mode : RangeBackward) (v : Byte)

/-- A byte below the window is passed over (R212). -/
theorem RngUnit.onByte_below (h : a < r.start) : r.onByte mode a v = (.cont, r) := by
  rw [RngUnit.onByte, if_pos h]

/-- A byte at the window's end or beyond stops the pass (R212). -/
theorem RngUnit.onByte_beyond (hstart : r.start ≤ a) (hstop : r.stop ≤ a) :
    r.onByte mode a v = (.stop, { r with stopped := true }) := by
  rw [RngUnit.onByte, if_neg (Nat.not_lt.2 hstart), if_pos hstop]
  rfl

/-- A byte at or above the cursor, or the first one, is folded with the gap before it (R212). -/
theorem RngUnit.onByte_forward (hstart : r.start ≤ a) (hstop : a < r.stop) (hcursor : r.cursor.getD a ≤ a) :
    r.onByte mode a v = (.cont, r.afterSpan a [v]) := by
  rcases r.onByte_cases mode a v with ⟨h, -⟩ | ⟨-, h, -⟩ | ⟨-, -, -, h⟩ | ⟨-, -, h, -⟩ | ⟨-, -, h, -⟩
  case inr.inr.inl => rw [h, crcStep_crcPad]; rfl
  all_goals omega

/-- A byte below the cursor is refused (R215). -/
theorem RngUnit.onByte_backward_refuse (hstart : r.start ≤ a) (hstop : a < r.stop) (hcursor : a < r.cursor.getD a) :
    r.onByte .refuse a v = (.stop, { r with refused := true }) := by
  rcases r.onByte_cases .refuse a v with ⟨h, -⟩ | ⟨-, h, -⟩ | ⟨-, -, h, -⟩ | ⟨-, -, -, -, h⟩ | ⟨-, -, -, h, -⟩
  case inr.inr.inr.inl => exact h
  case inr.inr.inr.inr => cases h
  all_goals omega

/-- A byte below the cursor is folded with no gap (R215). -/
theorem RngUnit.onByte_backward_fold (hstart : r.start ≤ a) (hstop : a < r.stop) (hcursor : a < r.cursor.getD a) :
    r.onByte .fold a v = (.cont, { r with crc := bitCrc r.crc [v], cursor := some (a + 1) }) := by
  rcases r.onByte_cases .fold a v with ⟨h, -⟩ | ⟨-, h, -⟩ | ⟨-, -, h, -⟩ | ⟨-, -, -, h, -⟩ | ⟨-, -, -, -, h⟩
  case inr.inr.inr.inr => rw [h, crcStep_eq_bitStep]; rfl
  case inr.inr.inr.inl => cases h
  all_goals omega

/-- "At or above the cursor, or no cursor set", as one comparison. -/
theorem RngUnit.cursor_getD_le_iff : r.cursor.getD a ≤ a ↔ ∀ c, r.cursor = some c → c ≤ a := by
  cases r.cursor <;> simp

end

/-! ### Data records of a range pass (R150, R212) -/

section
variable {s : State} {r : RngUnit} {a : Nat} {v : Byte} (address : U16)

theorem State.emitAnswer_range (hc : s.hex.consumer = .range) :
    s.emitAnswer a v = (s.rng.onByte s.config.rangeBackward a v).1 := by
  simp only [State.emitAnswer, hc]

theorem State.emit_range (hc : s.hex.consumer = .range) :
    s.emit a v = { s with
      rng := (s.rng.onByte s.config.rangeBackward a v).2
      trace := s.trace ++ [.emit .range a v (s.rng.onByte s.config.rangeBackward a v).1] } := by
  simp only [State.emit, hc]
  rfl

theorem emitAll_range_cont (hc : s.hex.consumer = .range)
    (h : s.rng.onByte s.config.rangeBackward a v = (.cont, r)) (vs : Bytes) :
    emitAll a (v :: vs) s =
      emitAll (a + 1) vs { s with rng := r, trace := s.trace ++ [.emit .range a v .cont] } := by
  simp only [emitAll, State.emitAnswer_range hc, State.emit_range hc, h]

theorem emitAll_range_stop (hc : s.hex.consumer = .range)
    (h : s.rng.onByte s.config.rangeBackward a v = (.stop, r)) (vs : Bytes) :
    emitAll a (v :: vs) s = .stopped { s with rng := r, trace := s.trace ++ [.emit .range a v .stop] } := by
  simp only [emitAll, State.emitAnswer_range hc, State.emit_range hc, h]

/-- Bytes in the window, from the cursor or above it on, are all folded and answered Continue. -/
theorem emitAll_range_span (vs : Bytes) (hc : s.hex.consumer = .range) (hstart : s.rng.start ≤ a)
    (hstop : a + (v :: vs).length ≤ s.rng.stop) (hcursor : s.rng.cursor.getD a ≤ a) :
    emitAll a (v :: vs) s = .more { s with
      rng := s.rng.afterSpan a (v :: vs)
      trace := s.trace ++ emitted .range a (v :: vs) } := by
  induction vs generalizing s a v with
  | nil => exact emitAll_range_cont hc (RngUnit.onByte_forward _ v hstart hstop hcursor) []
  | cons w vs ih =>
    have hlen : a + (vs.length + 1 + 1) ≤ s.rng.stop := hstop
    have hrest := ih (v := w) (s := { s with rng := s.rng.afterSpan a [v], trace := s.trace ++ [.emit .range a v .cont] })
      hc (Nat.le_succ_of_le hstart) (show a + 1 + (vs.length + 1) ≤ s.rng.stop by omega) (Nat.le_refl (a + 1))
    rw [emitAll_range_cont hc (RngUnit.onByte_forward _ v hstart (by omega) hcursor), hrest, RngUnit.afterSpan_cons,
      List.append_assoc]
    rfl

/-- A Data record in the window, from the cursor or above it on (R150, R212). -/
theorem dataRecord_range_span {data : Bytes} (hne : data ≠ []) (hc : s.hex.consumer = .range) (he : s.hex.eofSeen = false)
    (hstart : s.rng.start ≤ s.effAddr address) (hstop : s.effAddr address + data.length ≤ s.rng.stop)
    (hcursor : s.rng.cursor.getD (s.effAddr address) ≤ s.effAddr address) :
    dataRecord address data s = .more { s with
      hex := s.hex.afterData address data.length
      rng := s.rng.afterSpan (s.effAddr address) data
      trace := s.trace ++ emitted .range (s.effAddr address) data } := by
  obtain ⟨v, vs, rfl⟩ := List.exists_cons_of_ne_nil hne
  have hall := emitAll_range_span (s := s.withHex (s.hex.noteStart (s.effAddr address))) vs hc hstart hstop hcursor
  simp only [dataRecord, he, hall]
  rfl

/-- A record of one byte that the unit answers with Continue (R150). -/
theorem dataRecord_range_cont (hc : s.hex.consumer = .range) (he : s.hex.eofSeen = false)
    (h : s.rng.onByte s.config.rangeBackward (s.effAddr address) v = (.cont, r)) :
    dataRecord address [v] s = .more { s with
      hex := s.hex.afterData address 1
      rng := r
      trace := s.trace ++ [.emit .range (s.effAddr address) v .cont] } := by
  have hall := emitAll_range_cont (s := s.withHex (s.hex.noteStart (s.effAddr address))) hc h []
  simp only [dataRecord, he, hall]
  rfl

/-- A record of one byte that the unit answers with Stop (R151). -/
theorem dataRecord_range_stop (hc : s.hex.consumer = .range) (he : s.hex.eofSeen = false)
    (h : s.rng.onByte s.config.rangeBackward (s.effAddr address) v = (.stop, r)) :
    dataRecord address [v] s = .stopped { s with
      hex := s.hex.noteStart (s.effAddr address)
      rng := r
      trace := s.trace ++ [.emit .range (s.effAddr address) v .stop] } := by
  have hall := emitAll_range_stop (s := s.withHex (s.hex.noteStart (s.effAddr address))) hc h []
  simp only [dataRecord, he, hall]
  rfl

end

/-- A one-byte record by itself, answered Continue. -/
theorem exec_recData_range_cont {s : State} {r : RngUnit} {address : U16} {v : Byte} (hc : s.hex.consumer = .range)
    (he : s.hex.eofSeen = false) (h : s.rng.onByte s.config.rangeBackward (s.effAddr address) v = (.cont, r)) :
    exec (.recData address [v]) s = .next { s with
      hex := s.hex.afterData address 1
      rng := r
      trace := s.trace ++ [.emit .range (s.effAddr address) v .cont] } := by
  simp only [exec, execRecData, dataRecord_range_cont address hc he h, PassStep.settle]

/-- A one-byte record by itself, answered Stop: the pass is left to RANGE_CRC (R212). -/
theorem exec_recData_range_stop {s : State} {r : RngUnit} {address : U16} {v : Byte} (hc : s.hex.consumer = .range)
    (he : s.hex.eofSeen = false) (h : s.rng.onByte s.config.rangeBackward (s.effAddr address) v = (.stop, r)) :
    exec (.recData address [v]) s = .next { s with
      hex := s.hex.noteStart (s.effAddr address)
      rng := r
      trace := s.trace ++ [.emit .range (s.effAddr address) v .stop] } := by
  have hnoted : (s.hex.noteStart (s.effAddr address)).consumer = .range := hc
  simp only [exec, execRecData, dataRecord_range_stop address hc he h, PassStep.settle, hnoted]

/-- Settles O44: the cases of `OnByte` in the order of its checks, each with the record of that one byte. -/
theorem rangeConsumerByte : Obligations.RangeConsumerByte := by
  unfold Obligations.RangeConsumerByte
  intro s address v hc he
  dsimp only
  split_ifs with hbelow hbeyond hforward
  · exact exec_recData_range_cont hc he (RngUnit.onByte_below _ v hbelow)
  · exact exec_recData_range_stop hc he (RngUnit.onByte_beyond _ v (Nat.le_of_not_lt hbelow) hbeyond)
  · exact exec_recData_range_cont hc he (RngUnit.onByte_forward _ v (Nat.le_of_not_lt hbelow) (Nat.lt_of_not_le hbeyond)
      (RngUnit.cursor_getD_le_iff.2 hforward))
  · have hbackward := Nat.lt_of_not_le (mt RngUnit.cursor_getD_le_iff.1 hforward)
    cases hmode : s.config.rangeBackward with
    | refuse =>
      exact exec_recData_range_stop hc he (hmode ▸ RngUnit.onByte_backward_refuse v (Nat.le_of_not_lt hbelow)
        (Nat.lt_of_not_le hbeyond) hbackward)
    | fold =>
      exact exec_recData_range_cont hc he (hmode ▸ RngUnit.onByte_backward_fold v (Nat.le_of_not_lt hbelow)
        (Nat.lt_of_not_le hbeyond) hbackward)

/-! ### How RANGE_CRC ends (R210, R213, R215, R216) -/

/-- RANGE_CRC is a fresh range pass and its end (R210). -/
theorem exec_rangeCrc_of_passLoop {ls : List Text} {start stop : Nat} {s : State} {p : PassStep}
    (h : passLoop ls (s.begin.openRange start stop) = p) : exec (.rangeCrc (.lines ls) start stop) s = .next (closeRange p) :=
  congrArg (fun p => Host.Outcome.next (closeRange p)) h

theorem State.concludeRange_of_refused {s : State} (h : s.rng.refused = true) :
    s.concludeRange = s.finish (.refused .rangeNonMonotonic) := by
  rw [State.concludeRange, if_pos h]
  rfl

theorem passLoop_append_failed {ls : List Text} {d : HexDetail} {s t : State} (h : passLoop ls s = .failed d t)
    (ms : List Text) : passLoop (ls ++ ms) s = .failed d t := by
  rw [passLoop_append, h]

/-- Settles O48: the pass over the lines ends it, whatever lines follow. -/
theorem rangeErrorsAndAbandonment : Obligations.RangeErrorsAndAbandonment := by
  unfold Obligations.RangeErrorsAndAbandonment
  refine fun ls later start stop s t => ⟨fun d h => ?error, fun h => ?stop⟩
  case error => exact exec_rangeCrc_of_passLoop (passLoop_append_failed h later)
  case stop =>
    rw [exec_rangeCrc_of_passLoop h]
    exact exec_rangeCrc_of_passLoop (passLoop_append_stopped h later)

/-- The end of RANGE_CRC after a pass that was not refused and has the cursor set (R213). -/
theorem State.concludeRange_of_cursor {s : State} {c : Nat} (hr : s.rng.refused = false) (hcursor : s.rng.cursor = some c) :
    s.concludeRange =
      s.finish (.ok (.word (bitCrc s.rng.crc (List.replicate (s.rng.stop - c) erased)))) := by
  rw [State.concludeRange_of_not_refused hr, RngUnit.padToEnd_crc hcursor]

/-! ### Range passes as their registers and events -/

/-- A range pass of an operation that started in `s`: its HEX registers, its unit, and the events shown so far. -/
def State.rangePass (s : State) (h : HexUnit) (r : RngUnit) (es : List Event) : State :=
  { s.begin with hex := h, rng := r, trace := s.trace ++ es }

section
variable {s : State} {h : HexUnit} {r r' : RngUnit} {es : List Event} {address : U16} {v : Byte}

theorem State.openRange_eq_rangePass (s : State) (start stop : Nat) :
    s.begin.openRange start stop =
      s.rangePass { HexUnit.reset with consumer := .range } (RngUnit.load s.config.crcInit start stop) [] := by
  simp only [State.rangePass, List.append_nil]
  rfl

/-- The end of RANGE_CRC after a pass that was refused (R215). -/
theorem State.concludeRange_rangePass_refused (hr : r.refused = true) :
    (s.rangePass h r es).concludeRange = State.finish { s with trace := s.trace ++ es } (.refused .rangeNonMonotonic) :=
  State.concludeRange_of_refused (s := s.rangePass h r es) hr

/-- The end of RANGE_CRC after a pass with a byte in the window (R213). -/
theorem State.concludeRange_rangePass_padded {c : Nat} (hr : r.refused = false) (hcursor : r.cursor = some c) :
    (s.rangePass h r es).concludeRange = State.finish { s with trace := s.trace ++ es }
      (.ok (.word (bitCrc r.crc (List.replicate (r.stop - c) erased)))) :=
  State.concludeRange_of_cursor (s := s.rangePass h r es) hr hcursor

/-- A Data record in the window, from the cursor or above it on (R150, R212). -/
theorem lineStep_rangePass_span {a : Nat} {data : Bytes} (hne : data ≠ []) (hlen : data.length ≤ 255)
    (hc : h.consumer = .range) (he : h.eofSeen = false) (ha : h.xaddr.toNat + address.toNat = a) (hstart : r.start ≤ a)
    (hstop : a + data.length ≤ r.stop) (hcursor : r.cursor.getD a ≤ a) :
    lineStep (encodeRecord 0x00#8 address data) (s.rangePass h r es) = .more (s.rangePass
      (h.afterData address data.length) (r.afterSpan a data) (es ++ emitted .range a data)) := by
  subst ha
  rw [lineStep_encodeData address _ hlen, dataRecord_range_span (s := s.rangePass h r es) address hne hc he hstart hstop hcursor]
  simp only [State.rangePass, List.append_assoc]
  rfl

/-- An EndOfFile record (R153). -/
theorem lineStep_rangePass_eof : lineStep (encodeRecord 0x01#8 0#16 []) (s.rangePass h r es) =
    .more (s.rangePass { h.setEofSeen with pos := h.pos + 1 } r es) := lineStep_encodeEof 0#16 _

/-- A one-byte record before any offset record, answered Continue (R150). -/
theorem lineStep_rangePass_cont (hc : h.consumer = .range) (he : h.eofSeen = false) (hx : h.xaddr = 0#32)
    (hbyte : r.onByte s.config.rangeBackward address.toNat v = (.cont, r')) :
    lineStep (encodeRecord 0x00#8 address [v]) (s.rangePass h r es) =
      .more (s.rangePass (h.afterData address 1) r' (es ++ [.emit .range address.toNat v .cont])) := by
  have heff : (s.rangePass h r es).effAddr address = address.toNat := by simp [State.effAddr, State.rangePass, hx]
  rw [← heff] at hbyte
  rw [lineStep_encodeData address _ (by simp), dataRecord_range_cont address hc he hbyte, heff]
  simp only [State.rangePass, List.append_assoc]

/-- A one-byte record before any offset record, answered Stop (R151). -/
theorem lineStep_rangePass_stop (hc : h.consumer = .range) (he : h.eofSeen = false) (hx : h.xaddr = 0#32)
    (hbyte : r.onByte s.config.rangeBackward address.toNat v = (.stop, r')) :
    lineStep (encodeRecord 0x00#8 address [v]) (s.rangePass h r es) =
      .stopped (s.rangePass (h.noteStart address.toNat) r' (es ++ [.emit .range address.toNat v .stop])) := by
  have heff : (s.rangePass h r es).effAddr address = address.toNat := by simp [State.effAddr, State.rangePass, hx]
  rw [← heff] at hbyte
  rw [lineStep_encodeData address _ (by simp), dataRecord_range_stop address hc he hbyte, heff]
  simp only [State.rangePass, List.append_assoc]

end

/-! ### Files of one and two Data records (R212, R213, R215) -/

/-- Settles O46: the record after its offset record, the EndOfFile record, and the padding from the record's end. -/
theorem rangeCrcOfOneRecord : Obligations.RangeCrcOfOneRecord := by
  unfold Obligations.RangeCrcOfOneRecord
  intro d0 d1 address data start stop s hne hlen hstart hstop
  have hoffset : lineStep (encodeRecord 0x04#8 0#16 [d0, d1]) (s.begin.openRange start stop) = .more (s.rangePass
      { HexUnit.atOffset s.config.elaMode d0 d1 with consumer := .range } (RngUnit.load s.config.crcInit start stop) []) := by
    rw [State.openRange_eq_rangePass]
    exact lineStep_encodeEla 0#16 _ d0 d1
  have hdata := lineStep_rangePass_span (s := s) (h := { HexUnit.atOffset s.config.elaMode d0 d1 with consumer := .range })
    (r := RngUnit.load s.config.crcInit start stop) (es := []) (address := address) hne hlen rfl rfl
    (congrArg (· + address.toNat) (HexUnit.atOffset_xaddr s.config.elaMode d0 d1)) hstart hstop (Nat.le_refl _)
  rw [RngUnit.afterSpan_unset rfl] at hdata
  have hpass := (passLoop_cons_more _ hoffset).trans
    ((passLoop_cons_more _ hdata).trans (passLoop_cons_more [] lineStep_rangePass_eof))
  have hevents : dataEvents .range (elaBase s.config.elaMode d0 d1) [(address, data)] =
      emitted .range (elaBase s.config.elaMode d0 d1 + address.toNat) data := List.append_nil _
  rw [hevents, bitCrc_append]
  exact (exec_rangeCrc_of_passLoop hpass).trans (congrArg _ (State.concludeRange_rangePass_padded rfl rfl))

/-- Settles O47: the second record under each RANGE_BACKWARD, with the cursor just above the first one's address. -/
theorem rangeBackwardRefusedOrFolded : Obligations.RangeBackwardRefusedOrFolded := by
  unfold Obligations.RangeBackwardRefusedOrFolded
  intro s a1 a2 v1 v2 start stop hstart hback hstop
  have hbelow : a2.toNat < a1.toNat + 1 := Nat.lt_succ_of_le hback
  have hin : a2.toNat < stop := Nat.lt_of_le_of_lt hback hstop
  have hbyte1 := RngUnit.onByte_forward (r := RngUnit.load s.config.crcInit start stop) s.config.rangeBackward v1
    (hstart.trans hback) hstop (Nat.le_refl _)
  have hfirst := passLoop_cons_more [encodeRecord 0x00#8 a2 [v2]]
    (lineStep_rangePass_cont (h := { HexUnit.reset with consumer := .range }) (es := []) rfl rfl rfl hbyte1)
  rw [← State.openRange_eq_rangePass, RngUnit.afterSpan_unset rfl] at hfirst
  cases hmode : s.config.rangeBackward with
  | refuse =>
    have hbyte2 := RngUnit.onByte_backward_refuse
      (r := (RngUnit.load s.config.crcInit start stop).afterSpan a1.toNat [v1]) v2 hstart hin hbelow
    rw [← hmode, RngUnit.afterSpan_unset rfl] at hbyte2
    have hpass := hfirst.trans (passLoop_cons_stopped [] (lineStep_rangePass_stop rfl rfl rfl hbyte2))
    exact ⟨_, _, (exec_rangeCrc_of_passLoop hpass).trans (congrArg _ (State.concludeRange_rangePass_refused rfl)),
      fun _ => rfl, fun h => nomatch h⟩
  | fold =>
    have hbyte2 := RngUnit.onByte_backward_fold
      (r := (RngUnit.load s.config.crcInit start stop).afterSpan a1.toNat [v1]) v2 hstart hin hbelow
    rw [← hmode, RngUnit.afterSpan_unset rfl] at hbyte2
    have hpass := hfirst.trans (passLoop_cons_more [] (lineStep_rangePass_cont rfl rfl rfl hbyte2))
    exact ⟨_, _, (exec_rangeCrc_of_passLoop hpass).trans (congrArg _ (State.concludeRange_rangePass_padded rfl rfl)),
      fun h => (nomatch h), fun _ => by rw [bitCrc_append]; rfl⟩

end Sys2Proof.Machine
end

section
/-! RANGE_CRC is the CRC of the image's window bytes (45_range_crc.md R214): what the unit holds after each emission of the pass,
when the in-window ones increase in address. -/

namespace Sys2Proof.Machine

open Sys2Proof.Config

/-! ### The image's bytes up to an address (R53, R214) -/

theorem imageOf_read_unwritten {ws : List (Nat × Byte)} {a : Nat} (h : ∀ w ∈ ws, w.1 ≠ a) :
    (imageOf ws).read a = erased :=
  imageOf_read_append_other (ws := []) h

/-- With no emission in the window, its bytes are all unwritten. -/
theorem windowBytes_nil (start stop : Nat) : windowBytes start stop [] = List.replicate (stop - start) erased := by
  have hread : (imageOf []).read = fun _ => erased := rfl
  rw [windowBytes, hread, List.map_const', List.length_range']
  rfl

section
variable {start c a : Nat} {ws : List (Nat × Byte)}

theorem firstAddr_append (hne : ws ≠ []) (es : List (Nat × Byte)) : firstAddr start (ws ++ es) = firstAddr start ws := by
  rw [firstAddr, List.head?_append_of_ne_nil ws hne, firstAddr]

theorem firstAddr_lt (hne : ws ≠ []) (hbelow : ∀ w ∈ ws, w.1 < c) : firstAddr start ws < c := by
  obtain ⟨w, rest, rfl⟩ := List.exists_cons_of_ne_nil hne
  exact hbelow w List.mem_cons_self

/-- Above the last emission the window's bytes are unwritten. -/
theorem windowBytes_pad {stop : Nat} (hne : ws ≠ []) (hbelow : ∀ w ∈ ws, w.1 < c) (hstop : c ≤ stop) :
    windowBytes start stop ws = windowBytes start c ws ++ List.replicate (stop - c) erased := by
  have hfirst := firstAddr_lt (start := start) hne hbelow
  have hsplit : List.range' (firstAddr start ws) (stop - firstAddr start ws) =
      List.range' (firstAddr start ws) (c - firstAddr start ws) ++ List.range' c (stop - c) := by
    have happend := List.range'_append_1 (s := firstAddr start ws) (m := c - firstAddr start ws) (n := stop - c)
    rw [Nat.add_sub_cancel' hfirst.le] at happend
    rw [happend]
    congr 1
    omega
  have hpad : (List.range' c (stop - c)).map (imageOf ws).read = List.replicate (stop - c) erased := by
    refine List.eq_replicate_iff.2 ⟨by simp, List.forall_mem_map.2 fun a ha => imageOf_read_unwritten fun w hw => ?_⟩
    have := hbelow w hw
    have := (List.mem_range'_1.1 ha).1
    omega
  rw [windowBytes, hsplit, List.map_append, hpad, windowBytes]

/-- One more emission above the others adds its byte after the unwritten ones (R52). -/
theorem windowBytes_snoc (hne : ws ≠ []) (hbelow : ∀ w ∈ ws, w.1 < c) (ha : c ≤ a) (v : Byte) :
    windowBytes start (a + 1) (ws ++ [(a, v)]) = windowBytes start c ws ++ (List.replicate (a - c) erased ++ [v]) := by
  have hfirst := firstAddr_lt (start := start) hne hbelow
  have hbefore : (List.range' (firstAddr start ws) (a - firstAddr start ws)).map (imageOf (ws ++ [(a, v)])).read =
      windowBytes start a ws := by
    refine List.map_congr_left fun k hk => ?_
    have := (List.mem_range'_1.1 hk).2
    rw [imageOf_read_append, if_neg (by omega)]
  rw [windowBytes, firstAddr_append hne, Nat.succ_sub (by omega), List.range'_1_concat, List.map_append, hbefore,
    windowBytes_pad hne hbelow ha, List.append_assoc, Nat.add_sub_cancel' (by omega), List.map_singleton,
    imageOf_read_append, if_pos rfl]

/-- The first emission is the first byte: nothing before it counts (R214's `s0`). -/
theorem windowBytes_singleton (start a : Nat) (v : Byte) : windowBytes start (a + 1) [(a, v)] = [v] := by
  have hread : (imageOf [(a, v)]).read a = v := (imageOf_read_append [] (a, v) a).trans (if_pos rfl)
  have hfirst : firstAddr start [(a, v)] = a := rfl
  rw [windowBytes, hfirst, Nat.add_sub_cancel_left, List.range'_one, List.map_singleton, hread]

end

/-! ### What the unit holds (R212, R214) -/

/-- A CRC is that of the image's bytes up to a cursor just above the emissions made. -/
structure FoldedTo (init : U16) (start stop : Nat) (ws : List (Nat × Byte)) (crc : U16) (c : Nat) : Prop where
  last : ∃ w ∈ ws, c = w.1 + 1
  below : ∀ w ∈ ws, w.1 < c
  le_stop : c ≤ stop
  crc : crc = bitCrc init (windowBytes start c ws)

/-- The unit is as it was loaded while no emission is in the window, and then holds the CRC of the image's bytes up to its
cursor. -/
def RngUnit.FoldsImage (init : U16) (ws : List (Nat × Byte)) (r : RngUnit) : Prop :=
  (r.cursor = none ∧ ws = [] ∧ r.crc = init) ∨ ∃ c, r.cursor = some c ∧ FoldedTo init r.start r.stop ws r.crc c

/-- The unit has followed the emissions `ws` in its window, unless it refused one or their addresses do not increase. -/
def RngUnit.Tracks (init : U16) (ws : List (Nat × Byte)) (r : RngUnit) : Prop :=
  r.refused = false → Increasing ws → r.FoldsImage init ws

section
variable {init crc : U16} {start stop c a : Nat} {ws : List (Nat × Byte)}

theorem FoldedTo.ne_nil (h : FoldedTo init start stop ws crc c) : ws ≠ [] := by
  obtain ⟨w, hw, -⟩ := h.last
  exact List.ne_nil_of_mem hw

/-- The first byte in the window (R212). -/
theorem FoldedTo.first (hstop : a < stop) (v : Byte) : FoldedTo init start stop [(a, v)] (bitCrc init [v]) (a + 1) where
  last := ⟨(a, v), List.mem_singleton_self _, rfl⟩
  below w hw := by rw [List.mem_singleton.1 hw]; exact Nat.lt_succ_self a
  le_stop := hstop
  crc := by rw [windowBytes_singleton]

/-- A byte at or above the cursor, with the gap before it (R212). -/
theorem FoldedTo.next (h : FoldedTo init start stop ws crc c) (hcursor : c ≤ a) (hstop : a < stop) (v : Byte) :
    FoldedTo init start stop (ws ++ [(a, v)]) (bitCrc crc (List.replicate (a - c) erased ++ [v])) (a + 1) where
  last := ⟨(a, v), List.mem_append_right ws (List.mem_singleton_self _), rfl⟩
  below := by
    refine List.forall_mem_append.2 ⟨fun w hw => ?_, List.forall_mem_singleton.2 (Nat.lt_succ_self a)⟩
    have := h.below w hw
    omega
  le_stop := hstop
  crc := by rw [windowBytes_snoc h.ne_nil h.below hcursor, bitCrc_append init, ← h.crc]

/-- The padding at the end gives the rest of the window (R213). -/
theorem RngUnit.FoldsImage.padToEnd {r : RngUnit} (h : r.FoldsImage init ws) :
    r.padToEnd.crc = bitCrc init (windowBytes r.start r.stop ws) := by
  rcases h with ⟨hcursor, rfl, hcrc⟩ | ⟨c, hcursor, hfold⟩
  · rw [windowBytes_nil, RngUnit.padToEnd, hcursor, crcPad_eq_bitCrc, hcrc]
    rfl
  · rw [RngUnit.padToEnd_crc hcursor, windowBytes_pad hfold.ne_nil hfold.below hfold.le_stop, bitCrc_append init, ← hfold.crc]

/-! ### One emission, and a whole pass (R212, R214) -/

theorem Increasing.snoc_iff {w : Nat × Byte} : Increasing (ws ++ [w]) ↔ Increasing ws ∧ ∀ x ∈ ws, x.1 < w.1 := by
  simp [Increasing, List.pairwise_append]

theorem inWindow_inside (hstart : start ≤ a) (hstop : a < stop) (v : Byte) : inWindow start stop [(a, v)] = [(a, v)] := by
  simp [inWindow, hstart, hstop]

theorem inWindow_outside (h : a < start ∨ stop ≤ a) (v : Byte) : inWindow start stop [(a, v)] = [] :=
  List.filter_cons_of_neg (by simpa [imp_iff_not_or] using h)

/-- A byte folded from the cursor on, or the first one, continues the image's bytes. -/
theorem RngUnit.FoldsImage.afterSpan {r : RngUnit} (h : r.FoldsImage init ws) (hstop : a < r.stop)
    (hcursor : r.cursor.getD a ≤ a) (v : Byte) : (r.afterSpan a [v]).FoldsImage init (ws ++ [(a, v)]) := by
  rcases h with ⟨hunset, rfl, rfl⟩ | ⟨c, hset, hfold⟩
  · rw [RngUnit.afterSpan_unset hunset]
    exact .inr ⟨a + 1, rfl, .first hstop v⟩
  · have hspan := hfold.next (a := a) (by simpa [hset] using hcursor) hstop v
    refine .inr ⟨a + 1, rfl, ?_⟩
    simpa [RngUnit.afterSpan, hset] using hspan

/-- A byte below the cursor does not lie above the emissions before it. -/
theorem RngUnit.FoldsImage.not_increasing {r : RngUnit} (h : r.FoldsImage init ws) (hcursor : a < r.cursor.getD a) (v : Byte) :
    ¬ Increasing (ws ++ [(a, v)]) := by
  rw [Increasing.snoc_iff]
  rintro ⟨-, habove⟩
  rcases h with ⟨hunset, -, -⟩ | ⟨c, hset, hfold⟩
  · simp [hunset] at hcursor
  · obtain ⟨w, hw, rfl⟩ := hfold.last
    have hlow : a < w.1 + 1 := by simpa [hset] using hcursor
    exact absurd (habove w hw) (Nat.not_lt.2 (Nat.le_of_lt_succ hlow))

/-- `OnByte` follows every emission, in each of its cases. -/
theorem RngUnit.Tracks.onByte {r : RngUnit} (h : r.Tracks init ws) (mode : RangeBackward) (a : Nat) (v : Byte) :
    (r.onByte mode a v).2.Tracks init (ws ++ Machine.inWindow r.start r.stop [(a, v)]) := by
  by_cases hbelow : a < r.start
  · rw [RngUnit.onByte_below mode v hbelow, inWindow_outside (.inl hbelow), List.append_nil]
    exact h
  have hstart := Nat.le_of_not_lt hbelow
  by_cases hbeyond : r.stop ≤ a
  · rw [RngUnit.onByte_beyond mode v hstart hbeyond, inWindow_outside (.inr hbeyond), List.append_nil]
    exact h
  have hstop := Nat.lt_of_not_le hbeyond
  rw [inWindow_inside hstart hstop]
  by_cases hcursor : r.cursor.getD a ≤ a
  · rw [RngUnit.onByte_forward mode v hstart hstop hcursor]
    exact fun hr hinc => (h hr (Increasing.snoc_iff.1 hinc).1).afterSpan hstop hcursor v
  have hbackward := Nat.lt_of_not_le hcursor
  cases mode with
  | refuse =>
    rw [RngUnit.onByte_backward_refuse v hstart hstop hbackward]
    exact fun hr => nomatch hr
  | fold =>
    rw [RngUnit.onByte_backward_fold v hstart hstop hbackward]
    exact fun hr hinc => absurd hinc ((h hr (Increasing.snoc_iff.1 hinc).1).not_increasing hbackward v)

end

/-- A property of states that emissions and changes of HEX registers keep, so that a whole pass keeps it. -/
structure KeptByPass (P : State → Prop) : Prop where
  emit : ∀ s a v, P s → P (s.emit a v)
  withHex : ∀ s x, x.consumer = s.hex.consumer → P s → P (s.withHex x)

section
variable {P : State → Prop} (hP : KeptByPass P) {s : State}
include hP

theorem KeptByPass.emitAll (hs : P s) (a : Nat) (data : Bytes) : P (emitAll a data s).state := by
  induction data generalizing s a with
  | nil => exact hs
  | cons v vs ih =>
    unfold Machine.emitAll
    split
    · exact ih (hP.emit s a v hs) (a + 1)
    · exact hP.emit s a v hs

theorem KeptByPass.dataRecord (hs : P s) (address : U16) (data : Bytes) : P (dataRecord address data s).state := by
  have hall := hP.emitAll (hP.withHex s (s.hex.noteStart (s.effAddr address)) rfl hs) (s.effAddr address) data
  unfold Machine.dataRecord
  split
  · exact hs
  · simp only []
    generalize Machine.emitAll _ data _ = p at hall ⊢
    cases p with
    | more t => exact hP.withHex _ _ rfl (hP.withHex t _ rfl hall)
    | stopped t => exact hall
    | failed d t => exact hall

theorem KeptByPass.elaRecord (hs : P s) (data : Bytes) : P (elaRecord data s).state := by
  unfold Machine.elaRecord
  split
  · exact hP.withHex _ _ rfl (hP.withHex s _ rfl hs)
  · exact hs

theorem KeptByPass.recordStep (hs : P s) (r : Record) : P (recordStep r s).state := by
  have hnoOp : P (noOpRecord s).state := hP.withHex s _ rfl hs
  unfold Machine.recordStep
  split
  · exact hP.dataRecord hs r.address r.data
  · exact hP.withHex _ _ rfl (hP.withHex s _ rfl hs)
  · exact hnoOp
  · exact hnoOp
  · exact hP.elaRecord hs r.data
  · exact hnoOp
  · exact hs

theorem KeptByPass.lineStep (hs : P s) (line : Text) : P (lineStep line s).state := by
  unfold Machine.lineStep
  split
  · exact hs
  · exact hP.withHex s _ rfl hs
  · exact hP.recordStep hs _

theorem KeptByPass.passLoop (hs : P s) (ls : List Text) : P (passLoop ls s).state := by
  induction ls generalizing s with
  | nil => exact hs
  | cons l ls ih =>
    have hline := hP.lineStep hs l
    unfold Machine.passLoop
    generalize Machine.lineStep l s = p at hline ⊢
    cases p with
    | more t => exact ih hline
    | stopped t => exact hline
    | failed d t => exact hline

end

/-- A range pass whose unit has followed all its emissions in the window since the trace was `before`. -/
def State.TracksFrom (before : List Event) (s : State) : Prop :=
  s.hex.consumer = .range ∧ ∃ es, s.trace = before ++ es ∧
    s.rng.Tracks s.config.crcInit (inWindow s.rng.start s.rng.stop (emissionsTo .range es))

theorem State.tracksFrom_kept (before : List Event) : KeptByPass (State.TracksFrom before) where
  emit := by
    rintro s a v ⟨hc, es, htrace, htracks⟩
    have hwindow := RngUnit.onByte_window s.config.rangeBackward a v s.rng
    refine ⟨by rw [State.emit_hex, hc], es ++ [.emit .range a v (s.emitAnswer a v)],
      by rw [State.emit_trace, hc, htrace, List.append_assoc], ?_⟩
    rw [State.emit_range hc]
    dsimp only
    rw [hwindow.1, hwindow.2]
    have := htracks.onByte s.config.rangeBackward a v
    simpa [inWindow] using this
  withHex s x hx h := ⟨hx.trans h.1, h.2⟩

theorem State.openRange_tracksFrom (s : State) (start stop : Nat) : (s.begin.openRange start stop).TracksFrom s.trace :=
  ⟨rfl, [], (List.append_nil _).symm, fun _ _ => .inl ⟨rfl, rfl, rfl⟩⟩

/-- A range pass that raised no error ends in the refusal or in the padded CRC (R210, R213, R215). -/
theorem State.concludeRange_cases (s : State) :
    ∃ o, s.concludeRange = s.finish o ∧
      (o = .refused .rangeNonMonotonic ∨ s.rng.refused = false ∧ o = .ok (.word s.rng.padToEnd.crc)) := by
  cases hr : s.rng.refused with
  | true => exact ⟨_, State.concludeRange_of_refused hr, .inl rfl⟩
  | false => exact ⟨_, State.concludeRange_of_not_refused hr, .inr ⟨rfl, rfl⟩⟩

/-- How RANGE_CRC ends: an error, the refusal, or the padded CRC (R216). -/
theorem closeRange_cases (p : PassStep) :
    ∃ o, closeRange p = p.state.finish o ∧
      ((∃ d, o = .err (.hexFormat d)) ∨ o = .refused .rangeNonMonotonic ∨
        p.state.rng.refused = false ∧ o = .ok (.word p.state.rng.padToEnd.crc)) := by
  cases p with
  | failed d s => exact ⟨_, rfl, .inl ⟨d, rfl⟩⟩
  | more s | stopped s =>
    obtain ⟨o, hfinish, ho⟩ := s.concludeRange_cases
    exact ⟨o, hfinish, .inr ho⟩

/-- A range pass within an operation ends it as if only its events had been added (R34, R236). -/
theorem PassFrame.finish_range {s t : State} {start stop : Nat} {es : List Event}
    (h : PassFrame (s.begin.openRange start stop) t) (htrace : t.trace = s.trace ++ es) (o : Result) :
    t.finish o = State.finish { s with trace := s.trace ++ es } o :=
  State.finish_congr o h.config h.port (h.rangeSide rfl).1 h.transport (h.rangeSide rfl).2 htrace

/-- Settles O45: the pass keeps the unit in step with its in-window emissions, and the end pads the rest of the window. -/
theorem rangeCrcIsImageCrc : Obligations.RangeCrcIsImageCrc := by
  unfold Obligations.RangeCrcIsImageCrc
  intro src start stop s
  have hframe := passLoop_frame src.toLines (s.begin.openRange start stop)
  have htracksFrom := (State.tracksFrom_kept s.trace).passLoop (s.openRange_tracksFrom start stop) src.toLines
  obtain ⟨o, hclose, hresult⟩ := closeRange_cases (passLoop src.toLines (s.begin.openRange start stop))
  generalize (passLoop src.toLines (s.begin.openRange start stop)).state = t at hframe htracksFrom hclose hresult
  obtain ⟨es, htrace, hes⟩ := hframe.trace
  obtain ⟨-, es', htrace', htracks⟩ := htracksFrom
  obtain rfl : es = es' := List.append_cancel_left (htrace.symm.trans htrace')
  have hstart : t.rng.start = start := hframe.window.1
  have hstop : t.rng.stop = stop := hframe.window.2
  have hconfig : t.config = s.config := hframe.config
  refine ⟨es, o, congrArg _ (hclose.trans (hframe.finish_range htrace o)), hes, ?_⟩
  rcases hresult with herr | hrefused | ⟨hr, hok⟩
  · exact .inl herr
  · exact .inr (.inl hrefused)
  · refine .inr (.inr fun hinc => ?_)
    rw [hstart, hstop, hconfig] at htracks
    rw [hok, (htracks hr hinc).padToEnd, hstart, hstop]

end Sys2Proof.Machine
end

section
/-! Raising an error (60_exceptions.md R236, R240): the operation ends with it, and every unit register is at the value 10_state.md
R34 gives it after reset. -/

namespace Sys2Proof.Machine

/-- R34's reset values, register by register; those the rule leaves open are the model's (log 9). -/
theorem State.clearUnits_eq (s : State) : s.clearUnits =
    { s with
      crc := { acc := s.config.crcInit, pos := 0 }
      frm := { phase := .expectStart, escaping := false, out := [], pos := 0, input := [], rem := [] }
      enc := { pos := 0, out := [] }
      hex := { xaddr := 0#32, eofSeen := false, startAddr := none, endAddr := none, pos := 0, consumer := .host }
      rng := { crc := s.config.crcInit, cursor := none, start := 0, stop := 0, stopped := false, refused := false }
      ses := { op := 0x00#8, rx := [], timedOut := false } } := rfl

/-- Settles O53: an error is one way an operation ends; its end clears the units, and R34 gives their values. -/
theorem raiseEndsOperation : Obligations.RaiseEndsOperation := by
  unfold Obligations.RaiseEndsOperation
  intro s e
  calc s.raise e
    _ = s.finish (.err e) := s.raise_eq_finish e
    _ = { s.clearUnits with port := s.port.tail, trace := s.trace ++ [.outcome (.err e)] } := s.finish_eq (.err e)
    _ = _ := by rw [s.clearUnits_eq]

end Sys2Proof.Machine
end

section
/-! What a step shows depends on no earlier operation (R34, R272). Two facts give it: no operation reads what the block has shown
before it, and an operation that uses unit registers sets them first. So each operation runs as it does in the state that keeps
only the configuration and the ports. -/

namespace Sys2Proof.Machine

/-! ### Events shown earlier -/

/-- The state with the events `past` shown before its own. -/
def State.withPast (s : State) (past : List Event) : State := { s with trace := past ++ s.trace }

/-- However a step of a pass ends, with the events `past` shown before. -/
def PassStep.withPast (p : PassStep) (past : List Event) : PassStep :=
  match p with
  | .more s => .more (s.withPast past)
  | .stopped s => .stopped (s.withPast past)
  | .failed d s => .failed d (s.withPast past)

section
variable (s : State) (past : List Event)

@[simp] theorem State.withPast_hex : (s.withPast past).hex = s.hex := rfl
@[simp] theorem State.withPast_rng : (s.withPast past).rng = s.rng := rfl
@[simp] theorem State.withPast_effAddr (address : U16) : (s.withPast past).effAddr address = s.effAddr address := rfl
@[simp] theorem State.withPast_emitAnswer (a : Nat) (v : Byte) : (s.withPast past).emitAnswer a v = s.emitAnswer a v := rfl

theorem State.withHex_withPast (h : HexUnit) : (s.withPast past).withHex h = (s.withHex h).withPast past := rfl

theorem State.note_withPast (e : Event) : (s.withPast past).note e = (s.note e).withPast past := by
  simp only [State.note, State.withPast, List.append_assoc]

theorem State.finish_withPast (r : Result) : (s.withPast past).finish r = (s.finish r).withPast past :=
  congrArg (fun t => { t with port := s.port.tail }) (s.clearUnits.note_withPast past (.outcome r))

theorem State.raise_withPast (e : Err) : (s.withPast past).raise e = (s.raise e).withPast past :=
  s.finish_withPast past (.err e)

/-! ### Passes -/

/-- A consumer is told of its own byte and of no earlier event (R30, R52). -/
theorem State.emit_withPast (a : Nat) (v : Byte) : (s.withPast past).emit a v = (s.emit a v).withPast past := by
  cases hc : s.hex.consumer with
  | host =>
    cases ha : s.answers <;>
      simp [State.emit, State.emitHost, State.dropAnswer, State.nextAnswer, State.withPast, hc, ha]
  | range => simp [State.emit, State.withPast, State.note, State.withRng, hc]

theorem emitAll_withPast (a : Nat) (data : Bytes) :
    emitAll a data (s.withPast past) = (emitAll a data s).withPast past := by
  induction data generalizing a s with
  | nil => rfl
  | cons v vs ih =>
    rw [emitAll, emitAll, State.withPast_emitAnswer, State.emit_withPast]
    cases s.emitAnswer a v with
    | cont => exact ih _ _
    | stop => rfl

theorem dataRecord_withPast (address : U16) (data : Bytes) :
    dataRecord address data (s.withPast past) = (dataRecord address data s).withPast past := by
  unfold dataRecord
  simp only [State.withPast_hex, State.withPast_effAddr, State.withHex_withPast, emitAll_withPast]
  split
  · rfl
  · cases emitAll (s.effAddr address) data (s.withHex (s.hex.noteStart (s.effAddr address))) with
    | more t | stopped t | failed d t => rfl

theorem elaRecord_withPast (data : Bytes) : elaRecord data (s.withPast past) = (elaRecord data s).withPast past := by
  unfold elaRecord
  split <;> rfl

theorem recordStep_withPast (r : Record) : recordStep r (s.withPast past) = (recordStep r s).withPast past := by
  unfold recordStep
  split
  · exact dataRecord_withPast s past r.address r.data
  · rfl
  · rfl
  · rfl
  · exact elaRecord_withPast s past r.data
  · rfl
  · rfl

theorem lineStep_withPast (line : Text) : lineStep line (s.withPast past) = (lineStep line s).withPast past := by
  unfold lineStep
  split
  · rfl
  · rfl
  · exact recordStep_withPast s past _

/-- A whole pass, by induction over its lines. -/
theorem passLoop_withPast (ls : List Text) : passLoop ls (s.withPast past) = (passLoop ls s).withPast past := by
  induction ls generalizing s with
  | nil => rfl
  | cons l ls ih =>
    rw [passLoop, passLoop, lineStep_withPast]
    cases lineStep l s with
    | more t => exact ih t
    | stopped t | failed d t => rfl

theorem closePass_withPast (p : PassStep) : closePass (p.withPast past) = (closePass p).withPast past := by
  cases p with
  | more t => exact t.finish_withPast past _
  | stopped t => exact t.finish_withPast past _
  | failed d t => exact t.raise_withPast past _

theorem State.concludeRange_withPast : (s.withPast past).concludeRange = s.concludeRange.withPast past := by
  unfold State.concludeRange
  rw [State.withPast_rng]
  split
  · exact s.finish_withPast past _
  · exact (s.withRng s.rng.padToEnd).finish_withPast past _

theorem closeRange_withPast (p : PassStep) : closeRange (p.withPast past) = (closeRange p).withPast past := by
  cases p with
  | more t => exact t.concludeRange_withPast past
  | stopped t => exact t.concludeRange_withPast past
  | failed d t => exact t.raise_withPast past _

/-! ### Exchanges -/

theorem State.sendRequest_withPast (req : Request) :
    (s.withPast past).sendRequest req = (s.sendRequest req).withPast past :=
  State.note_withPast ((s.withSes { s.ses with op := req.opcode }).scanRequest req) past _

/-- The transport answers a read alike, whatever was shown before (R31). -/
theorem State.txRead_withPast : (s.withPast past).txRead = s.txRead.withPast past := by
  cases ht : s.transport <;> simp [State.txRead, State.dropRead, State.nextRead, State.withPast, ht]

theorem State.takeBare_withPast (v : Response) (rest : Bytes) :
    (s.withPast past).takeBare v rest = (s.takeBare v rest).withPast past := by
  unfold State.takeBare
  split <;> exact s.finish_withPast past _

theorem State.takeBootInfo_withPast (rest : Bytes) :
    (s.withPast past).takeBootInfo rest = (s.takeBootInfo rest).withPast past := by
  unfold State.takeBootInfo
  split <;> exact s.finish_withPast past _

theorem State.takeCrc_withPast (rest : Bytes) : (s.withPast past).takeCrc rest = (s.takeCrc rest).withPast past := by
  unfold State.takeCrc
  split <;> exact s.finish_withPast past _

theorem State.respond_withPast (body : Bytes) : (s.withPast past).respond body = (s.respond body).withPast past := by
  unfold State.respond
  split
  · exact s.raise_withPast past _
  · split
    · exact s.takeBootInfo_withPast past _
    · exact s.takeBare_withPast past _ _
    · exact s.takeBare_withPast past _ _
    · exact s.takeCrc_withPast past _
    · exact s.takeBare_withPast past _ _
    · exact s.raise_withPast past _

theorem State.checkMessage_withPast (p : Bytes) :
    (s.withPast past).checkMessage p = (s.checkMessage p).withPast past := by
  unfold State.checkMessage
  split
  · exact s.raise_withPast past _
  · have hcheck : ((s.withPast past).scanCrc (messageBody p)).crc = (s.scanCrc (messageBody p)).crc := rfl
    simp only [hcheck]
    split
    · exact s.raise_withPast past _
    · exact (s.scanCrc (messageBody p)).respond_withPast past _

theorem State.decodeResponse_withPast (r : Bytes) (timedOut : Bool) :
    (s.withPast past).decodeResponse r timedOut = (s.decodeResponse r timedOut).withPast past := by
  unfold State.decodeResponse
  split
  · exact s.raise_withPast past _
  · split
    · exact s.raise_withPast past _
    · exact (s.withFrm _).checkMessage_withPast past _

/-- An exchange: its write, its read, and the decode of what it read (R170). -/
theorem State.exchange_withPast (req : Request) : (s.withPast past).exchange req = (s.exchange req).withPast past := by
  have hread : ((s.withPast past).begin.sendRequest req).txRead = (s.begin.sendRequest req).txRead.withPast past := by
    rw [← State.txRead_withPast, ← State.sendRequest_withPast]
    rfl
  rw [State.exchange_eq, State.exchange_eq, hread]
  exact State.decodeResponse_withPast _ past _ _

end

/-! ### The state that keeps the configuration and the ports -/

/-- What is left of a state without what earlier operations have put into it: unit registers and events shown (R34, R272). -/
def State.fresh (s : State) : State := { s.begin with trace := [] }

/-- The states that agree on configuration and ports are those with one fresh state. -/
theorem State.samePorts_iff_fresh {s t : State} : s.SamePorts t ↔ s.fresh = t.fresh where
  mp h := by
    simp only [State.fresh, State.begin, State.clearUnits, h.config, h.port, h.answers, h.transport, h.draws]
  mpr h :=
    { config := congrArg (fun u => u.config) h
      port := congrArg (fun u => u.port) h
      answers := congrArg (fun u => u.answers) h
      transport := congrArg (fun u => u.transport) h
      draws := congrArg (fun u => u.draws) h }

/-- An operation that sets the unit registers first starts from the fresh state, with the events shown so far before it. -/
theorem State.begin_eq_fresh (s : State) : s.begin = s.fresh.withPast s.trace := by
  simp only [State.fresh, State.withPast, State.begin, State.clearUnits, List.append_nil]

/-- A step runs in every state as in its fresh state, with the state's events before its own. -/
def RunsAsFresh (run : State → Host.Outcome State Fault Refusal) : Prop :=
  ∀ s, ∃ t u, run s = .next t ∧ run s.fresh = .next u ∧ t.SamePorts u ∧ t.trace = s.trace ++ u.trace

/-- An operation that sets the unit registers first and then reads no earlier event (R272). -/
theorem RunsAsFresh.begin {f : State → State} (hf : ∀ s past, f (s.withPast past) = (f s).withPast past) :
    RunsAsFresh fun s => .next (f s.begin) := by
  intro s
  have hbegin : f s.begin = (f s.fresh).withPast s.trace := by rw [s.begin_eq_fresh, hf]
  exact ⟨_, _, congrArg _ hbegin, rfl, ⟨rfl, rfl, rfl, rfl, rfl⟩, rfl⟩

/-- An operation that uses no unit register. -/
theorem RunsAsFresh.deliver (r : Result) : RunsAsFresh fun s => .next (s.deliver r) :=
  fun _ => ⟨_, _, rfl, rfl, ⟨rfl, rfl, rfl, rfl, rfl⟩, rfl⟩

/-- An operation whose outcome is the same in every state. -/
theorem RunsAsFresh.finish (r : Result) : RunsAsFresh fun s => .next (s.finish r) :=
  .begin (f := (State.finish · r)) fun s past => s.finish_withPast past r

theorem RunsAsFresh.exchange (req : Request) : RunsAsFresh fun s => .next (s.exchange req) :=
  .begin (f := (State.exchange · req)) fun s past => s.exchange_withPast past req

/-- Every operation of the operation port runs so. -/
theorem exec_runsAsFresh {i : Instr} (hi : i.isOperation = true) : RunsAsFresh (exec i) := by
  cases i with
  | crcStep b st => exact .deliver _
  | crcCompute d =>
    exact .begin (f := fun s => (s.scanCrc d).finish (.ok (.word (s.scanCrc d).crc.acc)))
      fun s past => (s.scanCrc d).finish_withPast past _
  | frameEncode payload => exact .finish (.ok (.frame (frameEncode payload)))
  | frameDecode input =>
    cases hrun : FrmUnit.run input with
    | ok f => rw [funext (exec_frameDecode_ok hrun)]; exact .finish _
    | error d => rw [funext (exec_frameDecode_error hrun)]; exact .finish _
  | hexLineParse line =>
    cases hparse : hexLineParse line with
    | ok p => rw [funext (exec_hexLineParse_ok hparse)]; exact .deliver _
    | error d => rw [funext (exec_hexLineParse_error hparse)]; exact .finish _
  | hexFileParse src =>
    exact .begin (f := fun s => closePass (passLoop src.toLines (s.openPass .host))) fun s past =>
      (congrArg closePass (passLoop_withPast (s.openPass .host) past _)).trans (closePass_withPast past _)
  | requestEncode req =>
    exact .begin (f := fun s => (s.scanRequest req).finish (.ok (.frame (s.scanRequest req).enc.out)))
      fun s past => (s.scanRequest req).finish_withPast past _
  | responseDecode r timedOut =>
    exact .begin (f := (State.decodeResponse · r timedOut)) fun s past => s.decodeResponse_withPast past r timedOut
  | readBootInfo | eraseFlash | programFlash _ | readCrc _ _ => exact .exchange _
  | jumpToApp =>
    exact .begin (f := fun s => (s.sendRequest .jumpToApp).finish (.ok .nothing)) fun s past =>
      (congrArg (State.finish · _) (s.sendRequest_withPast past _)).trans (State.finish_withPast _ past _)
  | rangeCrc src start stop =>
    exact .begin (f := fun s => closeRange (passLoop src.toLines (s.openRange start stop))) fun s past =>
      (congrArg closeRange (passLoop_withPast (s.openRange start stop) past _)).trans (closeRange_withPast past _)
  | opselUnknown code => exact .finish _
  | _ => exact absurd hi Bool.false_ne_true

/-- Settles O58: states that agree on configuration and ports have one fresh state, and each shows after its own past what that
state shows. -/
theorem outcomeIndependentOfHistory : Obligations.OutcomeIndependentOfHistory := by
  unfold Obligations.OutcomeIndependentOfHistory
  intro s s' t hports hstep
  rcases step_cases s with ⟨hport, hidle⟩ | ⟨p, ps, i, hport, hdecode, hi, hexec⟩ | hfault
  · cases hidle.symm.trans hstep
    exact ⟨s', [], step_idle (hports.port ▸ hport), (List.append_nil _).symm, (List.append_nil _).symm, hports⟩
  · obtain ⟨t, u, ht, hu, htu, htrace⟩ := exec_runsAsFresh hi s
    obtain ⟨t', u', ht', hu', htu', htrace'⟩ := exec_runsAsFresh hi s'
    cases (hexec.trans ht).symm.trans hstep
    have hfresh : s.fresh = s'.fresh := State.samePorts_iff_fresh.1 hports
    obtain rfl : u = u' := by simpa [hfresh, hu'] using hu.symm
    exact ⟨t', u.trace, (step_port (hports.port ▸ hport) hdecode).trans ht', htrace, htrace',
      State.samePorts_iff_fresh.2 ((State.samePorts_iff_fresh.1 htu).trans (State.samePorts_iff_fresh.1 htu').symm)⟩
  · cases hfault.symm.trans hstep

end Sys2Proof.Machine
end
